-- ==== Sys2Proof/Word.lean ====
section
/-! DEFINITION. The word types of the machine (00_scope.md R8, R12; 30_encoding.md R91). -/

namespace Sys2Proof

/-- An 8-bit value: a V register, a timer, a memory cell, the field kk (R6, R91). -/
abbrev Byte := BitVec 8

/-- A 16-bit value: I, PC, OPCODE, KEYS, a stack entry (R6). -/
abbrev Word := BitVec 16

/-- A register index, the field x or y (R91): 0 to 15. -/
abbrev Reg := BitVec 4

/-- The 4-bit immediate n (R91). -/
abbrev Nibble := BitVec 4

/-- The 12-bit address nnn (R91). -/
abbrev Addr12 := BitVec 12

end Sys2Proof
end

