-- ==== Sys2Proof/Syntax.lean ====
section
/-! DEFINITION. The 34 instructions, one constructor for each row of the opcode map
(30_encoding.md R99), in the table's order. The field widths are those of R91. -/

namespace Sys2Proof

/-- An instruction of the opcode map (R99). -/
inductive Instr where
  /-- 00E0 `CLS` (R190) -/
  | cls
  /-- 00EE `RET` (R140) -/
  | ret
  /-- 1nnn `JP addr` (R141) -/
  | jp (nnn : Addr12)
  /-- 2nnn `CALL addr` (R142) -/
  | call (nnn : Addr12)
  /-- 3xkk `SE Vx, byte` (R150) -/
  | seVxKk (x : Reg) (kk : Byte)
  /-- 4xkk `SNE Vx, byte` (R151) -/
  | sneVxKk (x : Reg) (kk : Byte)
  /-- 5xy0 `SE Vx, Vy` (R152) -/
  | seVxVy (x y : Reg)
  /-- 6xkk `LD Vx, byte` (R161) -/
  | ldVxKk (x : Reg) (kk : Byte)
  /-- 7xkk `ADD Vx, byte` (R162) -/
  | addVxKk (x : Reg) (kk : Byte)
  /-- 8xy0 `LD Vx, Vy` (R163) -/
  | ldVxVy (x y : Reg)
  /-- 8xy1 `OR Vx, Vy` (R164) -/
  | orVxVy (x y : Reg)
  /-- 8xy2 `AND Vx, Vy` (R165) -/
  | andVxVy (x y : Reg)
  /-- 8xy3 `XOR Vx, Vy` (R166) -/
  | xorVxVy (x y : Reg)
  /-- 8xy4 `ADD Vx, Vy` (R167) -/
  | addVxVy (x y : Reg)
  /-- 8xy5 `SUB Vx, Vy` (R168) -/
  | sub (x y : Reg)
  /-- 8xy6 `SHR Vx`; y is decoded and ignored (R95, R169) -/
  | shr (x y : Reg)
  /-- 8xy7 `SUBN Vx, Vy` (R170) -/
  | subn (x y : Reg)
  /-- 8xyE `SHL Vx`; y is decoded and ignored (R95, R171) -/
  | shl (x y : Reg)
  /-- 9xy0 `SNE Vx, Vy` (R153) -/
  | sneVxVy (x y : Reg)
  /-- Annn `LD I, addr` (R180) -/
  | ldINnn (nnn : Addr12)
  /-- Bnnn `JP V0, addr` (R143) -/
  | jpV0 (nnn : Addr12)
  /-- Cxkk `RND Vx, byte` (R172) -/
  | rnd (x : Reg) (kk : Byte)
  /-- Dxyn `DRW Vx, Vy, nibble` (R191) -/
  | drw (x y : Reg) (n : Nibble)
  /-- Ex9E `SKP Vx` (R200) -/
  | skp (x : Reg)
  /-- ExA1 `SKNP Vx` (R201) -/
  | sknp (x : Reg)
  /-- Fx07 `LD Vx, DT` (R203) -/
  | ldVxDt (x : Reg)
  /-- Fx0A `LD Vx, K` (R202) -/
  | ldVxK (x : Reg)
  /-- Fx15 `LD DT, Vx` (R204) -/
  | ldDtVx (x : Reg)
  /-- Fx18 `LD ST, Vx` (R205) -/
  | ldStVx (x : Reg)
  /-- Fx1E `ADD I, Vx` (R181) -/
  | addIVx (x : Reg)
  /-- Fx29 `LD F, Vx` (R182) -/
  | ldFVx (x : Reg)
  /-- Fx33 `LD B, Vx` (R183) -/
  | ldBVx (x : Reg)
  /-- Fx55 `LD [I], Vx` (R184) -/
  | ldMemVx (x : Reg)
  /-- Fx65 `LD Vx, [I]` (R185) -/
  | ldVxMem (x : Reg)
  deriving DecidableEq, Repr

end Sys2Proof
end

