-- ==== Sys2Proof/Decode.lean ====
section
/-! DEFINITION. The opcode map (30_encoding.md R99), the decoder (40_fetch_dispatch.md R123), total on
any bytes, and the encoder written from the formats R92 to R97. -/

namespace Sys2Proof

/-! ## Fields (R91) -/

/-- The top nibble `op[15:12]`. -/
def opFamily (op : Word) : BitVec 4 := op.extractLsb' 12 4

/-- `op[11:8]` -/
def opX (op : Word) : Reg := op.extractLsb' 8 4

/-- `op[7:4]` -/
def opY (op : Word) : Reg := op.extractLsb' 4 4

/-- `op[3:0]` -/
def opN (op : Word) : Nibble := op.extractLsb' 0 4

/-- `op[7:0]` -/
def opKk (op : Word) : Byte := op.extractLsb' 0 8

/-- `op[11:0]` -/
def opNnn (op : Word) : Addr12 := op.extractLsb' 0 12

/-! ## The decoder (R123), one definition for each family with a secondary discriminant -/

/-- Family 0: all sixteen bits are literal (R92). -/
def decodeFamily0 (op : Word) : Option Instr :=
  if op = 0x00E0#16 then some .cls
  else if op = 0x00EE#16 then some .ret
  else none

/-- Family 8: the low nibble selects (R95). -/
def decodeFamily8 (op : Word) : Option Instr :=
  match (opN op).toNat with
  | 0x0 => some (.ldVxVy (opX op) (opY op))
  | 0x1 => some (.orVxVy (opX op) (opY op))
  | 0x2 => some (.andVxVy (opX op) (opY op))
  | 0x3 => some (.xorVxVy (opX op) (opY op))
  | 0x4 => some (.addVxVy (opX op) (opY op))
  | 0x5 => some (.sub (opX op) (opY op))
  | 0x6 => some (.shr (opX op) (opY op))
  | 0x7 => some (.subn (opX op) (opY op))
  | 0xE => some (.shl (opX op) (opY op))
  | _ => none

/-- Family E: the low byte selects (R97). -/
def decodeFamilyE (op : Word) : Option Instr :=
  match (opKk op).toNat with
  | 0x9E => some (.skp (opX op))
  | 0xA1 => some (.sknp (opX op))
  | _ => none

/-- Family F: the low byte selects (R97). -/
def decodeFamilyF (op : Word) : Option Instr :=
  match (opKk op).toNat with
  | 0x07 => some (.ldVxDt (opX op))
  | 0x0A => some (.ldVxK (opX op))
  | 0x15 => some (.ldDtVx (opX op))
  | 0x18 => some (.ldStVx (opX op))
  | 0x1E => some (.addIVx (opX op))
  | 0x29 => some (.ldFVx (opX op))
  | 0x33 => some (.ldBVx (opX op))
  | 0x55 => some (.ldMemVx (opX op))
  | 0x65 => some (.ldVxMem (opX op))
  | _ => none

/-- `Decode(op)` of R123: the handler a word selects, or none for an illegal word (R100). -/
def decodeWord (op : Word) : Option Instr :=
  match (opFamily op).toNat with
  | 0x0 => decodeFamily0 op
  | 0x1 => some (.jp (opNnn op))
  | 0x2 => some (.call (opNnn op))
  | 0x3 => some (.seVxKk (opX op) (opKk op))
  | 0x4 => some (.sneVxKk (opX op) (opKk op))
  | 0x5 => if opN op = 0 then some (.seVxVy (opX op) (opY op)) else none
  | 0x6 => some (.ldVxKk (opX op) (opKk op))
  | 0x7 => some (.addVxKk (opX op) (opKk op))
  | 0x8 => decodeFamily8 op
  | 0x9 => if opN op = 0 then some (.sneVxVy (opX op) (opY op)) else none
  | 0xA => some (.ldINnn (opNnn op))
  | 0xB => some (.jpV0 (opNnn op))
  | 0xC => some (.rnd (opX op) (opKk op))
  | 0xD => some (.drw (opX op) (opY op) (opN op))
  | 0xE => decodeFamilyE op
  | 0xF => decodeFamilyF op
  | _ => none

/-- Why bytes are no instruction. -/
inductive DecodeError where
  /-- Fewer than two bytes were given; an instruction is two (R90). -/
  | truncated
  /-- The word matches no row of the opcode map (R100). -/
  | unimplemented (op : Word)
  deriving DecidableEq, Repr

/-- The word of two bytes: the high byte shifted left by 8, or'd with the low byte (R63). -/
def wordOfBytes (hi lo : Byte) : Word := hi.setWidth 16 <<< 8 ||| lo.setWidth 16

/-- Decodes the first instruction of a byte string and gives the rest (R90, R63, R123). -/
def decode : List Byte → Except DecodeError (Instr × List Byte)
  | hi :: lo :: rest =>
    match decodeWord (wordOfBytes hi lo) with
    | some i => .ok (i, rest)
    | none => .error (.unimplemented (wordOfBytes hi lo))
  | _ => .error .truncated

/-! ## The encoder (R92 to R97, R99) -/

/-- Format NNN (R93). -/
def formatNnn (family : BitVec 4) (nnn : Addr12) : Word :=
  family.setWidth 16 <<< 12 ||| nnn.setWidth 16

/-- Format XKK (R94). -/
def formatXkk (family : BitVec 4) (x : Reg) (kk : Byte) : Word :=
  family.setWidth 16 <<< 12 ||| x.setWidth 16 <<< 8 ||| kk.setWidth 16

/-- Formats XY and XYN (R95, R96). -/
def formatXyn (family : BitVec 4) (x y : Reg) (n : Nibble) : Word :=
  family.setWidth 16 <<< 12 ||| x.setWidth 16 <<< 8 ||| y.setWidth 16 <<< 4 ||| n.setWidth 16

/-- The word of an instruction: the literals of its pattern and its fields in their places (R99). -/
def encode : Instr → Word
  | .cls => 0x00E0#16
  | .ret => 0x00EE#16
  | .jp nnn => formatNnn 0x1 nnn
  | .call nnn => formatNnn 0x2 nnn
  | .seVxKk x kk => formatXkk 0x3 x kk
  | .sneVxKk x kk => formatXkk 0x4 x kk
  | .seVxVy x y => formatXyn 0x5 x y 0x0
  | .ldVxKk x kk => formatXkk 0x6 x kk
  | .addVxKk x kk => formatXkk 0x7 x kk
  | .ldVxVy x y => formatXyn 0x8 x y 0x0
  | .orVxVy x y => formatXyn 0x8 x y 0x1
  | .andVxVy x y => formatXyn 0x8 x y 0x2
  | .xorVxVy x y => formatXyn 0x8 x y 0x3
  | .addVxVy x y => formatXyn 0x8 x y 0x4
  | .sub x y => formatXyn 0x8 x y 0x5
  | .shr x y => formatXyn 0x8 x y 0x6
  | .subn x y => formatXyn 0x8 x y 0x7
  | .shl x y => formatXyn 0x8 x y 0xE
  | .sneVxVy x y => formatXyn 0x9 x y 0x0
  | .ldINnn nnn => formatNnn 0xA nnn
  | .jpV0 nnn => formatNnn 0xB nnn
  | .rnd x kk => formatXkk 0xC x kk
  | .drw x y n => formatXyn 0xD x y n
  | .skp x => formatXkk 0xE x 0x9E
  | .sknp x => formatXkk 0xE x 0xA1
  | .ldVxDt x => formatXkk 0xF x 0x07
  | .ldVxK x => formatXkk 0xF x 0x0A
  | .ldDtVx x => formatXkk 0xF x 0x15
  | .ldStVx x => formatXkk 0xF x 0x18
  | .addIVx x => formatXkk 0xF x 0x1E
  | .ldFVx x => formatXkk 0xF x 0x29
  | .ldBVx x => formatXkk 0xF x 0x33
  | .ldMemVx x => formatXkk 0xF x 0x55
  | .ldVxMem x => formatXkk 0xF x 0x65

/-- The high byte of a word, stored at the lower address (R63). -/
def highByte (op : Word) : Byte := op.extractLsb' 8 8

/-- The low byte of a word, stored at the higher address (R63). -/
def lowByte (op : Word) : Byte := op.extractLsb' 0 8

/-- The two bytes of a word as memory holds them (R63). -/
def bytesOfWord (op : Word) : List Byte := [highByte op, lowByte op]

/-- The two bytes of an instruction as memory holds them (R63). -/
def encodeBytes (i : Instr) : List Byte := bytesOfWord (encode i)

/-! ## The opcode table's numbering -/

/-- The word of `nbits` bits `w` as the opcode table numbers them; the bits above are 0 (log 11). -/
def tableWord (nbits w : Nat) : Word := BitVec.ofNat 16 (w % 2 ^ nbits)

/-- The instruction the decoder reads from the word `w` of the opcode table, laid out as the hardware
stores it. -/
def decodeTableWord (nbits w : Nat) : Option Instr :=
  match decode (bytesOfWord (tableWord nbits w)) with
  | .ok (i, _) => some i
  | .error _ => none

/-! ## The opcode map as data (R99): match and mask, row by row -/

/-- A row of the opcode map. -/
structure Row where
  /-- The row's literal bits. -/
  pattern : Word
  /-- Which bits are literal. -/
  mask : Word
  deriving DecidableEq, Repr

/-- `op & mask = match` (R99). -/
def Row.matchesWord (r : Row) (op : Word) : Bool := op &&& r.mask == r.pattern

/-- The row of each instruction, as R99 prints it. -/
def Instr.row : Instr → Row
  | .cls => ⟨0x00E0, 0xFFFF⟩
  | .ret => ⟨0x00EE, 0xFFFF⟩
  | .jp _ => ⟨0x1000, 0xF000⟩
  | .call _ => ⟨0x2000, 0xF000⟩
  | .seVxKk _ _ => ⟨0x3000, 0xF000⟩
  | .sneVxKk _ _ => ⟨0x4000, 0xF000⟩
  | .seVxVy _ _ => ⟨0x5000, 0xF00F⟩
  | .ldVxKk _ _ => ⟨0x6000, 0xF000⟩
  | .addVxKk _ _ => ⟨0x7000, 0xF000⟩
  | .ldVxVy _ _ => ⟨0x8000, 0xF00F⟩
  | .orVxVy _ _ => ⟨0x8001, 0xF00F⟩
  | .andVxVy _ _ => ⟨0x8002, 0xF00F⟩
  | .xorVxVy _ _ => ⟨0x8003, 0xF00F⟩
  | .addVxVy _ _ => ⟨0x8004, 0xF00F⟩
  | .sub _ _ => ⟨0x8005, 0xF00F⟩
  | .shr _ _ => ⟨0x8006, 0xF00F⟩
  | .subn _ _ => ⟨0x8007, 0xF00F⟩
  | .shl _ _ => ⟨0x800E, 0xF00F⟩
  | .sneVxVy _ _ => ⟨0x9000, 0xF00F⟩
  | .ldINnn _ => ⟨0xA000, 0xF000⟩
  | .jpV0 _ => ⟨0xB000, 0xF000⟩
  | .rnd _ _ => ⟨0xC000, 0xF000⟩
  | .drw _ _ _ => ⟨0xD000, 0xF000⟩
  | .skp _ => ⟨0xE09E, 0xF0FF⟩
  | .sknp _ => ⟨0xE0A1, 0xF0FF⟩
  | .ldVxDt _ => ⟨0xF007, 0xF0FF⟩
  | .ldVxK _ => ⟨0xF00A, 0xF0FF⟩
  | .ldDtVx _ => ⟨0xF015, 0xF0FF⟩
  | .ldStVx _ => ⟨0xF018, 0xF0FF⟩
  | .addIVx _ => ⟨0xF01E, 0xF0FF⟩
  | .ldFVx _ => ⟨0xF029, 0xF0FF⟩
  | .ldBVx _ => ⟨0xF033, 0xF0FF⟩
  | .ldMemVx _ => ⟨0xF055, 0xF0FF⟩
  | .ldVxMem _ => ⟨0xF065, 0xF0FF⟩

/-- Families 0 to 7 of the opcode map (R99). -/
def opcodeRowsLow : List Row :=
  [⟨0x00E0, 0xFFFF⟩, ⟨0x00EE, 0xFFFF⟩, ⟨0x1000, 0xF000⟩, ⟨0x2000, 0xF000⟩, ⟨0x3000, 0xF000⟩,
   ⟨0x4000, 0xF000⟩, ⟨0x5000, 0xF00F⟩, ⟨0x6000, 0xF000⟩, ⟨0x7000, 0xF000⟩]

/-- Families 8 to D of the opcode map (R99). -/
def opcodeRowsMid : List Row :=
  [⟨0x8000, 0xF00F⟩, ⟨0x8001, 0xF00F⟩, ⟨0x8002, 0xF00F⟩, ⟨0x8003, 0xF00F⟩, ⟨0x8004, 0xF00F⟩,
   ⟨0x8005, 0xF00F⟩, ⟨0x8006, 0xF00F⟩, ⟨0x8007, 0xF00F⟩, ⟨0x800E, 0xF00F⟩, ⟨0x9000, 0xF00F⟩,
   ⟨0xA000, 0xF000⟩, ⟨0xB000, 0xF000⟩, ⟨0xC000, 0xF000⟩, ⟨0xD000, 0xF000⟩]

/-- Families E and F of the opcode map (R99). -/
def opcodeRowsHigh : List Row :=
  [⟨0xE09E, 0xF0FF⟩, ⟨0xE0A1, 0xF0FF⟩, ⟨0xF007, 0xF0FF⟩, ⟨0xF00A, 0xF0FF⟩, ⟨0xF015, 0xF0FF⟩,
   ⟨0xF018, 0xF0FF⟩, ⟨0xF01E, 0xF0FF⟩, ⟨0xF029, 0xF0FF⟩, ⟨0xF033, 0xF0FF⟩, ⟨0xF055, 0xF0FF⟩,
   ⟨0xF065, 0xF0FF⟩]

/-- The 34 rows of R99, in the table's order. -/
def opcodeTable : List Row := opcodeRowsLow ++ opcodeRowsMid ++ opcodeRowsHigh

end Sys2Proof
end

