-- ==== Sys2Proof/Config.lean ====
section
/-! DEFINITION. The fixed parameters (00_scope.md R6), the open parameters (R7) and the type of the
environment's events (R14). -/

namespace Sys2Proof.Config

/-- MEM_SIZE: addresses 0 to 4095 (R6). -/
def memSize : Nat := 4096

/-- RESET_PC and ROM_BASE (R6). -/
def resetPc : Word := 0x200#16

/-- ROM_BASE as an address (R6). -/
def romBase : Nat := 0x200

/-- ROM_MAX, the longest image (R6). -/
def romMax : Nat := 3584

/-- FONT_BASE (R6). -/
def fontBase : Nat := 0x050

/-- FONT_SIZE (R6). -/
def fontSize : Nat := 80

/-- STACK_DEPTH (R6). -/
def stackDepth : Nat := 16

/-- The default the spec offers for FONT (R251, R7). PRESUMED, log 4: the spec marks the bytes general
knowledge. It is the value of one field at `State.reset` and nothing else; unsafe for a claim about a
glyph's shape. -/
def defaultFont : Vector Byte 80 :=
  #v[0xF0, 0x90, 0x90, 0x90, 0xF0,  0x20, 0x60, 0x20, 0x20, 0x70,
     0xF0, 0x10, 0xF0, 0x80, 0xF0,  0xF0, 0x10, 0xF0, 0x10, 0xF0,
     0x90, 0x90, 0xF0, 0x10, 0x10,  0xF0, 0x80, 0xF0, 0x10, 0xF0,
     0xF0, 0x80, 0xF0, 0x90, 0xF0,  0xF0, 0x10, 0x20, 0x40, 0x40,
     0xF0, 0x90, 0xF0, 0x90, 0xF0,  0xF0, 0x90, 0xF0, 0x10, 0xF0,
     0xF0, 0x90, 0xF0, 0x90, 0x90,  0xE0, 0x90, 0xE0, 0x90, 0xE0,
     0xF0, 0x80, 0x80, 0x80, 0xF0,  0xE0, 0x90, 0x90, 0x90, 0xE0,
     0xF0, 0x80, 0xF0, 0x80, 0xF0,  0xF0, 0x80, 0xF0, 0x80, 0x80]

/-- rnd (R7, R234): the byte the random source returns at its k-th draw. A FREE VALUE (log 3): it has no
body, so nothing can be proved of it beyond its width, and a claim holds whatever it is. -/
opaque randomByte (k : Nat) : Byte

end Sys2Proof.Config

namespace Sys2Proof

/-- The six events that change the machine's state (R14). The byte `rnd` of `Cycle(rnd)` is not an
argument here: the only instruction that takes one draws it from `Config.randomByte` (log 3). -/
inductive Event where
  /-- `Reset` (R250). -/
  | reset
  /-- `LoadROM(bytes)` (R252). -/
  | loadRom (bytes : List Byte)
  /-- `SetKeys(k)` (R231). -/
  | setKeys (k : Word)
  /-- `AckRedraw` (R232). -/
  | ackRedraw
  /-- `TimerTick` (R226). -/
  | timerTick
  /-- `Cycle` (R120). -/
  | cycle
  deriving DecidableEq, Repr, Inhabited

/-- schedule (R7): the k-th event of an environment about whose order nothing is known. A FREE VALUE
(log 1): it has no body, so nothing can be proved of it, and a claim holds for every infinite sequence. -/
opaque Config.freeEvent (k : Nat) : Event

end Sys2Proof
end

