-- ==== Sys2Proof/Machine/State.lean ====
section
/-! DEFINITION. The state of the core (10_state.md R39), the reasons a step can stop, and the state
after `Reset` (70_reset_and_hazards.md R250). -/

namespace Sys2Proof.Machine

/-- The values of the FAULT register (R210). -/
inductive Cause where
  /-- code 0: no fault since `Reset` -/
  | none
  /-- code 1: fetch with PC + 1 > 4095 (R211) -/
  | fetchOutOfRange
  /-- code 2: fetch from an odd PC (R212) -/
  | pcMisaligned
  /-- code 3: the word matches no row of the opcode map (R213) -/
  | unimplementedOpcode
  /-- code 4: CALL with SP = 16 (R214) -/
  | stackOverflow
  /-- code 5: RET with SP = 0 (R215) -/
  | stackUnderflow
  /-- code 6: a data span from I passes 4095 (R216) -/
  | addressOutOfRange
  /-- code 7: a key index above 15 (R217) -/
  | keyIndexOutOfRange
  deriving DecidableEq, Repr

/-- MEM (R36, R60): the cells whose byte differs from what `Reset` puts there, addresses rising, and the
parameter FONT (R7, R251), which decides what `Reset` puts there and which no event changes (log 4). -/
structure Memory where
  /-- FONT, the 80 glyph bytes; a parameter of the model, free in every statement -/
  font : Vector Byte 80
  /-- the listed cells -/
  cells : List Host.Cell
  deriving DecidableEq, Repr

/-- FB (R37): row y is `fb[y]`, and `FB[y][x]` is bit x of it (DEDUCED, log 13). -/
abbrev FrameBuffer := Vector (BitVec 64) 32

/-- What the environment issues once the listed events are used up (R7; log 1). -/
inductive Later where
  /-- nothing more: the schedule is finite -/
  | stop
  /-- this event and then these, again and again -/
  | again (e : Event) (rest : List Event)
  /-- the events of the free sequence `Config.freeEvent` from the k-th on: any infinite sequence -/
  | free (k : Nat)
  deriving DecidableEq, Repr

/-- The schedule (R7): a finite or infinite sequence of events, as plain data (log 1). -/
structure Schedule where
  /-- the events that come first, the next one first -/
  events : List Event
  /-- what comes after them -/
  later : Later
  deriving DecidableEq, Repr

/-- The state of the core (R39); the last two fields are the model's own. -/
structure State where
  /-- V0 to VF (R20); VF is `v[15]` (R22) -/
  v : Vector Byte 16
  /-- the index register I (R25) -/
  i : Word
  /-- the program counter (R23) -/
  pc : Word
  /-- the stack pointer, a count of live entries from 0 to 16 (R27) -/
  sp : Fin 17
  /-- the call stack (R26) -/
  stack : Vector Word 16
  /-- the delay timer (R28) -/
  dt : Byte
  /-- the sound timer (R29) -/
  st : Byte
  /-- the opcode latch (R30) -/
  opcode : Word
  /-- the redraw flag (R31) -/
  redraw : Bool
  /-- the fault register (R32) -/
  fault : Cause
  /-- the keypad register: bit k is key k (R33) -/
  keys : Word
  /-- the memory (R36) -/
  mem : Memory
  /-- the frame buffer (R37) -/
  fb : FrameBuffer
  /-- the environment's events still to come (R7, R14; log 1) -/
  schedule : Schedule
  /-- how many random bytes have been drawn (R7, R234; log 3) -/
  draws : Nat
  deriving DecidableEq, Repr

/-- A reason for the machine to stop. There is none: every fault of the spec is latched in the FAULT
register and is a next state (R220, R222; log 5). -/
inductive Fault where
  deriving DecidableEq, Repr

/-- A reason for the model to give a step no meaning. -/
inductive Refusal where
  /-- Raised by `exec`'s arm of an instruction that has no meaning yet; no arm raises it now. Safe. -/
  | notModelled (mnemonic : String)
  /-- Raised by the event `LoadROM` for an image of more than 3584 bytes, which the spec says is no
  defined event and has no step (R253; DEDUCED, log 14). Safe. -/
  | romImageTooLong
  deriving DecidableEq, Repr

/-- The memory after `Reset` for a given FONT: nothing is listed (R250). -/
def Memory.initial (font : Vector Byte 80) : Memory := { font := font, cells := [] }

/-- The state right after `Reset` (R250). The FONT is the default the spec offers (PRESUMED, log 4), the
environment issues cycles for ever (DESIGN CHOICE, log 1), and no random byte has been drawn (DESIGN
CHOICE, log 3). -/
def State.reset : State where
  v := Vector.replicate 16 0
  i := 0
  pc := Config.resetPc
  sp := 0
  stack := Vector.replicate 16 0
  dt := 0
  st := 0
  opcode := 0
  redraw := false
  fault := .none
  keys := 0
  mem := Memory.initial Config.defaultFont
  fb := Vector.replicate 32 0
  schedule := { events := [], later := .again .cycle [] }
  draws := 0

end Sys2Proof.Machine
end

