-- ==== Sys2Proof/Machine/Ops.lean ====
section
/-! DEFINITION. The operations over registers, memory, stack, frame buffer, keypad and timers, the
reads of the output ports, and taking a fault. -/

namespace Sys2Proof.Machine

/-- What a meaning answers. -/
abbrev Result := Host.Outcome State Fault Refusal

/-! ## Registers -/

/-- `V[x]` (R20). -/
def State.reg (s : State) (x : Reg) : Byte := s.v[x.toNat]'x.isLt

/-- `V[x] <- b` (R20). -/
def State.setReg (s : State) (x : Reg) (b : Byte) : State :=
  { s with v := s.v.set x.toNat b x.isLt }

/-- The index of VF (R22). -/
def vf : Reg := 15#4

/-- `I <- a` (R25). -/
def State.setI (s : State) (a : Word) : State := { s with i := a }

/-- `PC <- a` (R23). -/
def State.setPc (s : State) (a : Word) : State := { s with pc := a }

/-- The skip mechanism of R126: a further `PC <- PC + 2` when the condition holds. -/
def State.skipIf (s : State) (c : Bool) : State := if c then s.setPc (s.pc + 2) else s

/-! ## Memory -/

/-- What `Reset` puts at an address (R250): FONT at 0x050 to 0x09F, 0 elsewhere. An unlisted address
reads as this. Above 4095 nothing exists; no step reads there (log 6). -/
def Memory.background (m : Memory) (a : Nat) : Byte :=
  if h : 0x050 ≤ a ∧ a < 0x0A0 then m.font[a - 0x050]'(by omega) else 0

/-- The byte listed for an address, if there is one. -/
def lookupCell : List Host.Cell → Nat → Option Byte
  | [], _ => none
  | (k, b) :: rest, a => if a = k then some b else lookupCell rest a

/-- `MemRead(a, 1)` (R11). -/
def Memory.read (m : Memory) (a : Nat) : Byte :=
  match lookupCell m.cells a with
  | some b => b
  | none => m.background a

/-- The list with the byte `b` at address `a`, in the canonical form; `bg` is what `a` reads as when it
is not listed. -/
def putCell (bg : Byte) : List Host.Cell → Nat → Byte → List Host.Cell
  | [], a, b => if b = bg then [] else [(a, b)]
  | (k, c) :: rest, a, b =>
    if a < k then (if b = bg then (k, c) :: rest else (a, b) :: (k, c) :: rest)
    else if a = k then (if b = bg then rest else (a, b) :: rest)
    else (k, c) :: putCell bg rest a b

/-- `MemWrite(a, 1, b)` (R11). Its precondition is `a ≤ 4095`; outside it nothing is written, and no
step gets there (log 6). -/
def Memory.write (m : Memory) (a : Nat) (b : Byte) : Memory :=
  if a < Config.memSize then { m with cells := putCell (m.background a) m.cells a b } else m

/-- Byte writes at ascending addresses from `a` (R64, R70). -/
def Memory.writeBytes (m : Memory) (a : Nat) : List Byte → Memory
  | [] => m
  | b :: rest => (m.write a b).writeBytes (a + 1) rest

/-- `n` byte reads at ascending addresses from `a` (R64, R70). -/
def Memory.readBytes (m : Memory) (a : Nat) : Nat → List Byte
  | 0 => []
  | n + 1 => m.read a :: m.readBytes (a + 1) n

/-- Every address is below the bound that follows it and none is listed with its background byte. -/
def cellsOk (m : Memory) : Nat → List Host.Cell → Bool
  | _, [] => true
  | lo, (a, b) :: rest =>
    decide (lo ≤ a) && decide (a < Config.memSize) && b != m.background a && cellsOk m (a + 1) rest

/-- The canonical form: addresses strictly rising and below 4096, and no cell equal to what its
address reads as when it is not listed. -/
def Memory.wf (m : Memory) : Bool := cellsOk m 0 m.cells

/-! ## The call stack (R27) -/

/-- `STACK[SP] <- a; SP <- SP + 1`, or none when SP = 16. -/
def State.push (s : State) (a : Word) : Option State :=
  if h : s.sp.val < 16 then
    some { s with stack := s.stack.set s.sp.val a h, sp := ⟨s.sp.val + 1, by omega⟩ }
  else none

/-- `SP <- SP − 1; t <- STACK[SP]`, or none when SP = 0; the slot keeps its value (R26). -/
def State.pop (s : State) : Option (Word × State) :=
  if h : 0 < s.sp.val then
    some (s.stack[s.sp.val - 1]'(by omega), { s with sp := ⟨s.sp.val - 1, by omega⟩ })
  else none

/-! ## Frame buffer (R37) -/

/-- `FB[y][x]` -/
def pixel (fb : FrameBuffer) (y : Fin 32) (x : Fin 64) : Bool := fb[y.val].getLsbD x.val

/-- `FB[y][x] <- FB[y][x] ^ 1` -/
def togglePixel (fb : FrameBuffer) (y : Fin 32) (x : Fin 64) : FrameBuffer :=
  fb.set y.val (fb[y.val] ^^^ BitVec.twoPow 64 x.val)

/-- The frame buffer with every pixel off (R190). -/
def clearFb : FrameBuffer := Vector.replicate 32 0

/-- What a draw changes: the frame buffer, and whether a pixel has gone from on to off so far. -/
structure Canvas where
  /-- the frame buffer -/
  fb : FrameBuffer
  /-- a collision has happened (R193) -/
  hit : Bool
  deriving DecidableEq, Repr

/-- The inner statements of R191 for one set sprite bit: note a collision, then XOR the pixel. -/
def Canvas.touch (c : Canvas) (y : Fin 32) (x : Fin 64) : Canvas :=
  { fb := togglePixel c.fb y x, hit := c.hit || pixel c.fb y x }

/-- The row of a pixel `r` rows below `cy`: `(cy + r) mod 32` (R192). -/
def wrapRow (cy : Byte) (r : Nat) : Fin 32 := ⟨(cy.toNat + r) % 32, Nat.mod_lt _ (by decide)⟩

/-- The column of a pixel `k` columns right of `cx`: `(cx + k) mod 64` (R192). -/
def wrapCol (cx : Byte) (k : Nat) : Fin 64 := ⟨(cx.toNat + k) % 64, Nat.mod_lt _ (by decide)⟩

/-- The pixel under column `k` of row `r` of a sprite: touched if the row's bit `7 − k` is set (R191). -/
def Canvas.drawBit (c : Canvas) (cx cy : Byte) (r : Nat) (bits : Byte) (k : Nat) : Canvas :=
  if bits.getLsbD (7 - k) then c.touch (wrapRow cy r) (wrapCol cx k) else c

/-- Columns 0 to 7 of row `r` of a sprite (R191). -/
def Canvas.drawRow (c : Canvas) (cx cy : Byte) (r : Nat) (bits : Byte) : Canvas :=
  (List.range 8).foldl (fun c k => c.drawBit cx cy r bits k) c

/-- The rows of a sprite from row `r` on (R191). -/
def Canvas.drawRows (c : Canvas) (cx cy : Byte) (r : Nat) : List Byte → Canvas
  | [] => c
  | bits :: rest => (c.drawRow cx cy r bits).drawRows cx cy (r + 1) rest

/-! ## Keypad and random source -/

/-- The least pressed key, if one is pressed (R202). -/
def lowestKey (keys : Word) : Option Nat := (List.range 16).find? (fun k => keys.getLsbD k)

/-- One draw from the random byte source: the byte, and the state with the draw counted (R172, R234;
a free value, log 3). -/
def State.drawByte (s : State) : Byte × State :=
  (Config.randomByte s.draws, { s with draws := s.draws + 1 })

/-! ## Timers -/

/-- One tick of a timer: down by 1, stopping at 0 (R226). -/
def tickDown (t : Byte) : Byte := if t = 0 then 0 else t - 1

/-! ## Taking a fault -/

/-- The code of a cause in FAULT (R210). -/
def Cause.code : Cause → BitVec 3
  | .none => 0
  | .fetchOutOfRange => 1
  | .pcMisaligned => 2
  | .unimplementedOpcode => 3
  | .stackOverflow => 4
  | .stackUnderflow => 5
  | .addressOutOfRange => 6
  | .keyIndexOutOfRange => 7

/-- Fault entry (R220, R13): FAULT takes the cause and PC is `p`, the address of the faulting
instruction. Nothing else changes, because every check comes before the first write (R128). There is no
handler address, no saved PC and no mode (R220), and no return: only `Reset` clears FAULT (R223). -/
def State.takeFault (s : State) (p : Word) (c : Cause) : State := { s with pc := p, fault := c }

/-- Fault entry from decode or a handler, where PC already holds `p + 2` (R122): the advance is undone
(R220; DEDUCED, log 8). -/
def State.raise (s : State) (c : Cause) : State := s.takeFault (s.pc - 2) c

/-! ## Output ports (R235) -/

/-- `tone = (ST ≠ 0)` (R233). -/
def State.tone (s : State) : Bool := s.st != 0

/-- The fault port (R221). -/
def State.faultPort (s : State) : BitVec 3 := s.fault.code

/-- Bit `k` of the display port: `FB[y][x]` at `k = y·64 + x` (R232). -/
def State.fbPort (s : State) (k : Fin 2048) : Bool :=
  pixel s.fb ⟨k.val / 64, by omega⟩ ⟨k.val % 64, Nat.mod_lt _ (by decide)⟩

/-- The redraw port (R232). -/
def State.redrawPort (s : State) : Bool := s.redraw

end Sys2Proof.Machine
end

