-- ==== Sys2Proof/Machine/Flags.lean ====
section
/-! DEFINITION. The flag computations (10_state.md R22) and the write order of the flag-writing
instructions (40_fetch_dispatch.md R125). -/

namespace Sys2Proof.Machine

/-- A flag value: 0x00 or 0x01 (R22). -/
def flagByte (c : Bool) : Byte := if c then 1 else 0

/-- The carry of 8xy4: `a + b > 255`, the sum not reduced (R167). -/
def carryOut (a b : Byte) : Bool := a.toNat + b.toNat > 255

/-- The flag of 8xy5 and 8xy7: strictly greater, so equal operands give 0 (R168, R170). -/
def strictlyGreater (a b : Byte) : Bool := a.toNat > b.toNat

/-- The bit 8xy6 shifts out: `a[0]` (R169). -/
def lowBit (a : Byte) : Bool := a.getLsbD 0

/-- The bit 8xyE shifts out: `a[7]` (R171). -/
def highBit (a : Byte) : Bool := a.getLsbD 7

/-- `V[15] <- flag` (R22). -/
def State.setFlag (s : State) (c : Bool) : State := s.setReg vf (flagByte c)

/-- The flag first, the result second, so that the result stands when x = 15 (R125, R160). Both
were computed from the old registers (the spec's decision D4; UNVERIFIED, log 7). -/
def State.setFlagThenReg (s : State) (c : Bool) (x : Reg) (b : Byte) : State :=
  (s.setFlag c).setReg x b

end Sys2Proof.Machine
end

