-- ==== Sys2Proof/Machine/Operands.lean ====
section
/-! DEFINITION. The operand forms: immediates (30_encoding.md R98), the data span from I
(20_memory.md R68), register blocks (44_index_memory.md R184) and the key a register names
(46_keypad_timers.md R200). -/

namespace Sys2Proof.Machine

/-- `zext_16(nnn)` (R98). -/
def zextAddr (nnn : Addr12) : Word := nnn.setWidth 16

/-- `zext_16(b)` of a byte (R143, R181). -/
def zextByte (b : Byte) : Word := b.setWidth 16

/-- The address I as a number: the first byte of a data span (R25). -/
def State.dataAddr (s : State) : Nat := s.i.toNat

/-- The bytes I to I + last are in memory: the sum is not reduced (R68). -/
def State.spanFits (s : State) (last : Nat) : Bool := s.i.toNat + last ≤ 4095

/-- `V[0]` to `V[x]`, ascending (R184). -/
def State.regsUpTo (s : State) (x : Reg) : List Byte := s.v.toList.take (x.toNat + 1)

/-- `V[k] <- b` for the bytes in turn, from register `k` on (R185). -/
def State.setRegsFrom (s : State) (k : Nat) : List Byte → State
  | [] => s
  | b :: rest => (s.setReg (BitVec.ofNat 4 k) b).setRegsFrom (k + 1) rest

/-- The state of the key whose number is the byte, or none for a number above 15 (R200, R201). -/
def State.keyPressed (s : State) (k : Byte) : Option Bool :=
  if k.toNat ≤ 15 then some (s.keys.getLsbD k.toNat) else none

/-- The digits Fx33 stores, hundreds first (R183). -/
def bcdDigits (a : Byte) : List Byte :=
  [BitVec.ofNat 8 (a.toNat / 100), BitVec.ofNat 8 (a.toNat / 10 % 10), BitVec.ofNat 8 (a.toNat % 10)]

/-- The glyph address of Fx29: `0x0050 + 5 · a`, with all eight bits of `a` (R182). -/
def glyphAddr (a : Byte) : Word := BitVec.ofNat 16 (Config.fontBase + 5 * a.toNat)

end Sys2Proof.Machine
end

