-- ==== Sys2Proof/Machine/Alu.lean ====
section
/-! DEFINITION. Register load, arithmetic, logic, shift and random (43_load_alu.md R160 to R172). Both
operands are read from the state on entry, before any write (R125). -/

namespace Sys2Proof.Machine

/-- 6xkk (R161). -/
def execLdVxKk (x : Reg) (kk : Byte) (s : State) : Result := .next (s.setReg x kk)

/-- 7xkk (R162): no flag. -/
def execAddVxKk (x : Reg) (kk : Byte) (s : State) : Result := .next (s.setReg x (s.reg x + kk))

/-- 8xy0 (R163). -/
def execLdVxVy (x y : Reg) (s : State) : Result := .next (s.setReg x (s.reg y))

/-- 8xy1 (R164): no flag. -/
def execOr (x y : Reg) (s : State) : Result := .next (s.setReg x (s.reg x ||| s.reg y))

/-- 8xy2 (R165): no flag. -/
def execAnd (x y : Reg) (s : State) : Result := .next (s.setReg x (s.reg x &&& s.reg y))

/-- 8xy3 (R166): no flag. -/
def execXor (x y : Reg) (s : State) : Result := .next (s.setReg x (s.reg x ^^^ s.reg y))

/-- 8xy4 (R167). -/
def execAddVxVy (x y : Reg) (s : State) : Result :=
  .next (s.setFlagThenReg (carryOut (s.reg x) (s.reg y)) x (s.reg x + s.reg y))

/-- 8xy5 (R168). -/
def execSub (x y : Reg) (s : State) : Result :=
  .next (s.setFlagThenReg (strictlyGreater (s.reg x) (s.reg y)) x (s.reg x - s.reg y))

/-- 8xy6 (R169): Vx in place; y is not used. -/
def execShr (x _y : Reg) (s : State) : Result :=
  .next (s.setFlagThenReg (lowBit (s.reg x)) x (s.reg x >>> 1))

/-- 8xy7 (R170). -/
def execSubn (x y : Reg) (s : State) : Result :=
  .next (s.setFlagThenReg (strictlyGreater (s.reg y) (s.reg x)) x (s.reg y - s.reg x))

/-- 8xyE (R171): Vx in place; y is not used. -/
def execShl (x _y : Reg) (s : State) : Result :=
  .next (s.setFlagThenReg (highBit (s.reg x)) x (s.reg x <<< 1))

/-- Cxkk (R172): the byte is a free value (log 3). -/
def execRnd (x : Reg) (kk : Byte) (s : State) : Result :=
  .next (s.drawByte.2.setReg x (s.drawByte.1 &&& kk))

end Sys2Proof.Machine
end

