-- ==== Sys2Proof/Machine/Control.lean ====
section
/-! DEFINITION. Control transfer: RET, JP, CALL, JP V0 (41_control_flow.md R140 to R143). On entry PC
holds p + 2. -/

namespace Sys2Proof.Machine

/-- 00EE (R140). -/
def execRet (s : State) : Result :=
  match s.pop with
  | none => .next (s.raise .stackUnderflow)
  | some (t, s') => .next (s'.setPc t)

/-- 1nnn (R141). -/
def execJp (nnn : Addr12) (s : State) : Result := .next (s.setPc (zextAddr nnn))

/-- 2nnn (R142): the value pushed is the advanced PC. -/
def execCall (nnn : Addr12) (s : State) : Result :=
  match s.push s.pc with
  | none => .next (s.raise .stackOverflow)
  | some s' => .next (s'.setPc (zextAddr nnn))

/-- Bnnn (R143): the sum is not reduced. -/
def execJpV0 (nnn : Addr12) (s : State) : Result :=
  .next (s.setPc (zextAddr nnn + zextByte (s.reg 0)))

end Sys2Proof.Machine
end

