-- ==== Sys2Proof/Machine/Display.lean ====
section
/-! DEFINITION. Display: clear screen and draw sprite (45_display.md R190 to R195). -/

namespace Sys2Proof.Machine

/-- 00E0 (R190). -/
def execCls (s : State) : Result := .next { s with fb := clearFb, redraw := true }

/-- What the draw of R191 makes of the frame buffer, and whether a pixel went from on to off: the
coordinates, I and the sprite bytes come from the state on entry. -/
def State.drawCanvas (s : State) (x y : Reg) (n : Nibble) : Canvas :=
  Canvas.drawRows { fb := s.fb, hit := false } (s.reg x) (s.reg y) 0 (s.mem.readBytes s.dataAddr n.toNat)

/-- The draw of R191 after its range check: VF ends as the collision flag (R193) and REDRAW is set
(R195). -/
def State.draw (s : State) (x y : Reg) (n : Nibble) : State :=
  ({ s with fb := (s.drawCanvas x y n).fb, redraw := true } : State).setFlag (s.drawCanvas x y n).hit

/-- Dxyn (R191): with n = 0 there is no range check (R194). -/
def execDrw (x y : Reg) (n : Nibble) (s : State) : Result :=
  if n = 0 ∨ s.spanFits (n.toNat - 1) then .next (s.draw x y n)
  else .next (s.raise .addressOutOfRange)

end Sys2Proof.Machine
end

