-- ==== Sys2Proof/Machine/IndexMemory.lean ====
section
/-! DEFINITION. Index register and memory transfer (44_index_memory.md R180 to R185). I is never
changed by a memory access, and a span is checked whole before the first access (R68). -/

namespace Sys2Proof.Machine

/-- Annn (R180). -/
def execLdINnn (nnn : Addr12) (s : State) : Result := .next (s.setI (zextAddr nnn))

/-- Fx1E (R181): modulo 65536, no flag, no fault. -/
def execAddIVx (x : Reg) (s : State) : Result := .next (s.setI (s.i + zextByte (s.reg x)))

/-- Fx29 (R182). -/
def execLdFVx (x : Reg) (s : State) : Result := .next (s.setI (glyphAddr (s.reg x)))

/-- Fx33 (R183). -/
def execLdBVx (x : Reg) (s : State) : Result :=
  if s.spanFits 2 then .next { s with mem := s.mem.writeBytes s.dataAddr (bcdDigits (s.reg x)) }
  else .next (s.raise .addressOutOfRange)

/-- Fx55 (R184). -/
def execLdMemVx (x : Reg) (s : State) : Result :=
  if s.spanFits x.toNat then .next { s with mem := s.mem.writeBytes s.dataAddr (s.regsUpTo x) }
  else .next (s.raise .addressOutOfRange)

/-- Fx65 (R185). -/
def execLdVxMem (x : Reg) (s : State) : Result :=
  if s.spanFits x.toNat then
    .next (s.setRegsFrom 0 (s.mem.readBytes s.dataAddr (x.toNat + 1)))
  else .next (s.raise .addressOutOfRange)

end Sys2Proof.Machine
end

