-- ==== Sys2Proof/Machine/KeypadTimer.lean ====
section
/-! DEFINITION. Keypad and timer instructions (46_keypad_timers.md R200 to R205). -/

namespace Sys2Proof.Machine

/-- Ex9E (R200). -/
def execSkp (x : Reg) (s : State) : Result :=
  match s.keyPressed (s.reg x) with
  | none => .next (s.raise .keyIndexOutOfRange)
  | some down => .next (s.skipIf down)

/-- ExA1 (R201). -/
def execSknp (x : Reg) (s : State) : Result :=
  match s.keyPressed (s.reg x) with
  | none => .next (s.raise .keyIndexOutOfRange)
  | some down => .next (s.skipIf (!down))

/-- Fx07 (R203). -/
def execLdVxDt (x : Reg) (s : State) : Result := .next (s.setReg x s.dt)

/-- Fx0A (R202): with no key pressed the advance of PC is taken back, and nothing else happens. -/
def execLdVxK (x : Reg) (s : State) : Result :=
  match lowestKey s.keys with
  | none => .next (s.setPc (s.pc - 2))
  | some k => .next (s.setReg x (BitVec.ofNat 8 k))

/-- Fx15 (R204). -/
def execLdDtVx (x : Reg) (s : State) : Result := .next { s with dt := s.reg x }

/-- Fx18 (R205). -/
def execLdStVx (x : Reg) (s : State) : Result := .next { s with st := s.reg x }

end Sys2Proof.Machine
end

