-- ==== Sys2Proof/Machine/Cycle.lean ====
section
/-! DEFINITION. The event `Cycle` (40_fetch_dispatch.md R120 to R123): halt gating, fetch, PC advance,
decode, dispatch. -/

namespace Sys2Proof.Machine

/-- The two bytes fetch reads, `MEM[PC]` and `MEM[PC + 1]` (R121). -/
def State.fetchBytes (s : State) : List Byte := s.mem.readBytes s.pc.toNat 2

/-- The word those bytes make, high byte first (R63, R121). -/
def State.fetchWord (s : State) : Word :=
  wordOfBytes (s.mem.read s.pc.toNat) (s.mem.read (s.pc.toNat + 1))

/-- The state on entry to decode: OPCODE holds the word (R127) and PC is advanced by 2 (R122). -/
def State.fetched (s : State) : State := { s with opcode := s.fetchWord, pc := s.pc + 2 }

/-- What fetch raises, in the order of its checks (R121). -/
def State.fetchCause (s : State) : Cause :=
  if s.pc.toNat + 1 > 4095 then .fetchOutOfRange
  else if s.pc.toNat % 2 = 1 then .pcMisaligned
  else .none

/-- Decode and execute, from the state `fetched` leaves (R123, R124). -/
def State.dispatch (s : State) : Result :=
  match decode s.fetchBytes with
  | .error _ => .next (s.fetched.raise .unimplementedOpcode)
  | .ok (i, _) => exec i s.fetched

/-- The event `Cycle` (R120): nothing while halted (R222). -/
def State.cycle (s : State) : Result :=
  if s.fault ≠ .none then .next s
  else if s.fetchCause ≠ .none then .next (s.takeFault s.pc s.fetchCause)
  else s.dispatch

end Sys2Proof.Machine
end

