-- ==== Sys2Proof/WellFormed.lean ====
section
/-! DEFINITION. Well-formed operands (30_encoding.md R91, R103) and well-formed events
(70_reset_and_hazards.md R253). The fields of `Instr` have the exact widths of R91, so an ill-formed
instruction cannot be written; `Instr.wellFormed` says so in the rule's numbers. -/

namespace Sys2Proof

/-- An operand as the assembler notation of R103 writes it: a kind and a number. -/
inductive Operand where
  /-- `Vx`, `Vy` -/
  | reg (n : Nat)
  /-- `byte` -/
  | byte (n : Nat)
  /-- `addr` -/
  | addr (n : Nat)
  /-- `nibble` -/
  | nibble (n : Nat)
  deriving DecidableEq, Repr

/-- The number fits its field (R91, R98). -/
def Operand.wellFormed : Operand → Bool
  | .reg n => n < 16
  | .byte n => n < 256
  | .addr n => n < 4096
  | .nibble n => n < 16

/-- The operands of an instruction, in the order of its encoding (R99). -/
def Instr.operands : Instr → List Operand
  | .cls => []
  | .ret => []
  | .jp nnn => [.addr nnn.toNat]
  | .call nnn => [.addr nnn.toNat]
  | .seVxKk x kk => [.reg x.toNat, .byte kk.toNat]
  | .sneVxKk x kk => [.reg x.toNat, .byte kk.toNat]
  | .seVxVy x y => [.reg x.toNat, .reg y.toNat]
  | .ldVxKk x kk => [.reg x.toNat, .byte kk.toNat]
  | .addVxKk x kk => [.reg x.toNat, .byte kk.toNat]
  | .ldVxVy x y => [.reg x.toNat, .reg y.toNat]
  | .orVxVy x y => [.reg x.toNat, .reg y.toNat]
  | .andVxVy x y => [.reg x.toNat, .reg y.toNat]
  | .xorVxVy x y => [.reg x.toNat, .reg y.toNat]
  | .addVxVy x y => [.reg x.toNat, .reg y.toNat]
  | .sub x y => [.reg x.toNat, .reg y.toNat]
  | .shr x y => [.reg x.toNat, .reg y.toNat]
  | .subn x y => [.reg x.toNat, .reg y.toNat]
  | .shl x y => [.reg x.toNat, .reg y.toNat]
  | .sneVxVy x y => [.reg x.toNat, .reg y.toNat]
  | .ldINnn nnn => [.addr nnn.toNat]
  | .jpV0 nnn => [.addr nnn.toNat]
  | .rnd x kk => [.reg x.toNat, .byte kk.toNat]
  | .drw x y n => [.reg x.toNat, .reg y.toNat, .nibble n.toNat]
  | .skp x => [.reg x.toNat]
  | .sknp x => [.reg x.toNat]
  | .ldVxDt x => [.reg x.toNat]
  | .ldVxK x => [.reg x.toNat]
  | .ldDtVx x => [.reg x.toNat]
  | .ldStVx x => [.reg x.toNat]
  | .addIVx x => [.reg x.toNat]
  | .ldFVx x => [.reg x.toNat]
  | .ldBVx x => [.reg x.toNat]
  | .ldMemVx x => [.reg x.toNat]
  | .ldVxMem x => [.reg x.toNat]

/-- Every operand fits its field (R91). -/
def Instr.wellFormed (i : Instr) : Bool := i.operands.all Operand.wellFormed

/-- The events the spec defines: an image of more than 3584 bytes is no defined `LoadROM` (R253). -/
def Event.wellFormed : Event → Bool
  | .reset => true
  | .loadRom bytes => bytes.length ≤ Config.romMax
  | .setKeys _ => true
  | .ackRedraw => true
  | .timerTick => true
  | .cycle => true

end Sys2Proof
end

