-- ==== Sys2Proof/Machine/Events.lean ====
section
/-! DEFINITION. The events of the environment (00_scope.md R14) and the order in which step issues
them (log 1). -/

namespace Sys2Proof.Machine

/-- `Reset` (R250), from any state. FONT, the schedule and the count of draws belong to the environment,
not to the core, and stay (DEDUCED, log 10). -/
def State.applyReset (s : State) : State :=
  { State.reset with mem := Memory.initial s.mem.font, schedule := s.schedule, draws := s.draws }

/-- `LoadROM(bytes)` (R252): writes from 0x200 on; an image of more than 3584 bytes has no step (R253,
log 14). It acts in every state (UNVERIFIED, log 12). -/
def State.loadRom (s : State) (bytes : List Byte) : Result :=
  if (Event.loadRom bytes).wellFormed then
    .next { s with mem := s.mem.writeBytes Config.romBase bytes }
  else .refused .romImageTooLong

/-- `TimerTick` (R226). -/
def State.timerTick (s : State) : State := { s with dt := tickDown s.dt, st := tickDown s.st }

/-- `SetKeys(k)` (R231). -/
def State.setKeys (s : State) (k : Word) : State := { s with keys := k }

/-- `AckRedraw` (R232). -/
def State.ackRedraw (s : State) : State := { s with redraw := false }

/-- One event (R14). All but `Cycle` act in every state, halted or not (R222). -/
def State.event (s : State) : Event → Result
  | .reset => .next s.applyReset
  | .loadRom bytes => s.loadRom bytes
  | .setKeys k => .next (s.setKeys k)
  | .ackRedraw => .next s.ackRedraw
  | .timerTick => .next s.timerTick
  | .cycle => s.cycle

/-- The next event and the schedule after it, or none when no event is to come (R7, R14; log 1). -/
def Schedule.next (c : Schedule) : Option (Event × Schedule) :=
  match c.events, c.later with
  | e :: rest, _ => some (e, { c with events := rest })
  | [], .stop => none
  | [], .again e rest => some (e, { c with events := rest })
  | [], .free k => some (Config.freeEvent k, { c with later := .free (k + 1) })

/-- The schedule with its next event, if there is one, taken off. -/
def Schedule.after (c : Schedule) : Schedule :=
  match c.next with
  | none => c
  | some (_, c') => c'

/-- The next event of the schedule; when no event is to come, nothing happens (log 1). -/
def State.issue (s : State) : Result :=
  match s.schedule.next with
  | none => .next s
  | some (e, c) => { s with schedule := c }.event e

/-- The schedule is known to begin with a `Cycle`. -/
def Schedule.beginsWithCycle (c : Schedule) : Bool :=
  match c.events, c.later with
  | e :: _, _ => e == .cycle
  | [], .stop => false
  | [], .again e _ => e == .cycle
  | [], .free _ => false

/-- The schedule, with a `Cycle` put first if it is not known to begin with one (log 2). -/
def Schedule.withCycle (c : Schedule) : Schedule :=
  if c.beginsWithCycle then c else { c with events := .cycle :: c.events }

/-- Stores a word at PC, high byte first (R63). -/
def State.placeWord (s : State) (op : Word) : State :=
  { s with mem := s.mem.writeBytes s.pc.toNat (bytesOfWord op) }

/-- The state made ready for a fetch: the core runs, PC can be fetched from, and the next event is a
`Cycle`; what is so already is left alone (log 2). -/
def State.readyToFetch (s : State) : State :=
  { s with
    fault := .none
    pc := if s.fetchCause = .none then s.pc else Config.resetPc
    schedule := s.schedule.withCycle }

end Sys2Proof.Machine
end

