-- ==== Sys2Proof/Machine/Step.lean ====
section
/-! DEFINITION. One step of the machine: the next event (00_scope.md R14). -/

namespace Sys2Proof.Machine

/-- One step: the next event of the environment; a `Cycle` runs one instruction. -/
def step (s : State) : Host.Outcome State Fault Refusal := s.issue

/-- `s` with the table word `w` of `nbits` bits placed where the next step fetches (log 2). -/
def State.withFetchWord (s : State) (nbits w : Nat) : State :=
  s.readyToFetch.placeWord (tableWord nbits w)

end Sys2Proof.Machine
end

