-- ==== Sys2Proof/Safety.lean ====
section
/-! DEFINITION. What counts as a safe run, and the notions claims use: when a cycle runs, which fault it
raises (60_exceptions.md R219), the invariants of 10_state.md R41, and which pixels a sprite covers
(45_display.md R191). -/

namespace Sys2Proof.Machine

/-- Halted: FAULT is not 0 (R222). -/
def State.halted (s : State) : Bool := s.fault != .none

/-- The next event is a `Cycle` (log 1). -/
def State.cycleIsNext (s : State) : Bool :=
  match s.schedule.next with
  | none => false
  | some (e, _) => e == .cycle

/-- The state with the next event, if one is to come, taken off the schedule. -/
def State.popEvent (s : State) : State := { s with schedule := s.schedule.after }

/-- The core runs and the next event is a `Cycle`. -/
def State.running (s : State) : Bool := !s.halted && s.cycleIsNext

/-- The instruction the next cycle executes, if it gets as far (R120). -/
def State.nextInstr (s : State) : Option Instr :=
  if s.fault = .none ∧ s.fetchCause = .none then decodeWord s.fetchWord else none

/-- The span check of R68 fails for the bytes I to I + last. -/
def spanCause (s : State) (last : Nat) : Cause :=
  if s.i.toNat + last > 4095 then .addressOutOfRange else .none

/-- The one check of the key skips (R217). -/
def keyCause (s : State) (x : Reg) : Cause :=
  if (s.reg x).toNat > 15 then .keyIndexOutOfRange else .none

/-- The fault an instruction's handler raises, or none: the table of R210 and R219, instruction by
instruction. -/
def handlerCause (i : Instr) (s : State) : Cause :=
  match i with
  | .cls => .none
  | .ret => if s.sp.val = 0 then .stackUnderflow else .none
  | .jp _ => .none
  | .call _ => if s.sp.val = 16 then .stackOverflow else .none
  | .seVxKk _ _ => .none
  | .sneVxKk _ _ => .none
  | .seVxVy _ _ => .none
  | .ldVxKk _ _ => .none
  | .addVxKk _ _ => .none
  | .ldVxVy _ _ => .none
  | .orVxVy _ _ => .none
  | .andVxVy _ _ => .none
  | .xorVxVy _ _ => .none
  | .addVxVy _ _ => .none
  | .sub _ _ => .none
  | .shr _ _ => .none
  | .subn _ _ => .none
  | .shl _ _ => .none
  | .sneVxVy _ _ => .none
  | .ldINnn _ => .none
  | .jpV0 _ => .none
  | .rnd _ _ => .none
  | .drw _ _ n => if n.toNat ≥ 1 then spanCause s (n.toNat - 1) else .none
  | .skp x => keyCause s x
  | .sknp x => keyCause s x
  | .ldVxDt _ => .none
  | .ldVxK _ => .none
  | .ldDtVx _ => .none
  | .ldStVx _ => .none
  | .addIVx _ => .none
  | .ldFVx _ => .none
  | .ldBVx _ => spanCause s 2
  | .ldMemVx x => spanCause s x.toNat
  | .ldVxMem x => spanCause s x.toNat

/-- The fault a cycle of a running core raises, or none: fetch range, fetch alignment, decode, then the
handler's check (R219). -/
def cycleCause (s : State) : Cause :=
  if s.pc.toNat + 1 > 4095 then .fetchOutOfRange
  else if s.pc.toNat % 2 = 1 then .pcMisaligned
  else
    match decodeWord s.fetchWord with
    | none => .unimplementedOpcode
    | some i => handlerCause i s

/-- A live stack entry is even and from 2 to 4096 (R41). -/
def liveEntryOk (a : Word) : Bool := a.toNat % 2 == 0 && 2 ≤ a.toNat && a.toNat ≤ 4096

/-- The invariants of R41 that the types do not already give, and the canonical form of memory. -/
structure State.Inv (s : State) : Prop where
  /-- memory is in its canonical form -/
  memory : s.mem.wf = true
  /-- PC is at most 4350 -/
  pc : s.pc.toNat ≤ 4350
  /-- every live entry is a value PC held right after a fetch -/
  stack : ∀ k : Fin 16, k.val < s.sp.val → liveEntryOk (s.stack[k.val]) = true

/-- `n` steps, stopping at the first that has no next state. -/
def steps : Nat → State → Result
  | 0, s => .next s
  | n + 1, s =>
    match step s with
    | .next t => steps n t
    | .fault r => .fault r
    | .refused r => .refused r

/-- A safe run of `n` steps: each has a next state, and the core is not halted at the end. FAULT is
sticky (R32), so without a `Reset` on the way it was not halted before. -/
def safeFor (n : Nat) (s : State) : Bool :=
  match steps n s with
  | .next t => !t.halted
  | .fault _ => false
  | .refused _ => false

/-- The draw of `n` rows at I with its corner at (`V[x]`, `V[y]`) covers pixel (`px`, `py`) with a set
bit of the sprite (R191, R192). -/
def spriteCovers (s : State) (x y : Reg) (n : Nibble) (py : Fin 32) (px : Fin 64) : Prop :=
  ∃ r k : Nat, r < n.toNat ∧ k < 8 ∧ (s.mem.read (s.i.toNat + r)).getLsbD (7 - k) = true ∧
    px.val = ((s.reg x).toNat + k) % 64 ∧ py.val = ((s.reg y).toNat + r) % 32

/-! ## Which instruction may write what (R21, R22, R25) -/

/-- The instructions that write V registers (R21). -/
def writesV : Instr → Bool
  | .cls => false
  | .ret => false
  | .jp _ => false
  | .call _ => false
  | .seVxKk _ _ => false
  | .sneVxKk _ _ => false
  | .seVxVy _ _ => false
  | .ldVxKk _ _ => true
  | .addVxKk _ _ => true
  | .ldVxVy _ _ => true
  | .orVxVy _ _ => true
  | .andVxVy _ _ => true
  | .xorVxVy _ _ => true
  | .addVxVy _ _ => true
  | .sub _ _ => true
  | .shr _ _ => true
  | .subn _ _ => true
  | .shl _ _ => true
  | .sneVxVy _ _ => false
  | .ldINnn _ => false
  | .jpV0 _ => false
  | .rnd _ _ => true
  | .drw _ _ _ => true
  | .skp _ => false
  | .sknp _ => false
  | .ldVxDt _ => true
  | .ldVxK _ => true
  | .ldDtVx _ => false
  | .ldStVx _ => false
  | .addIVx _ => false
  | .ldFVx _ => false
  | .ldBVx _ => false
  | .ldMemVx _ => false
  | .ldVxMem _ => true

/-- The instructions that may change VF: as a flag (R22), or because a destination register is 15. -/
def mayWriteVf : Instr → Bool
  | .cls => false
  | .ret => false
  | .jp _ => false
  | .call _ => false
  | .seVxKk _ _ => false
  | .sneVxKk _ _ => false
  | .seVxVy _ _ => false
  | .ldVxKk x _ => x == vf
  | .addVxKk x _ => x == vf
  | .ldVxVy x _ => x == vf
  | .orVxVy x _ => x == vf
  | .andVxVy x _ => x == vf
  | .xorVxVy x _ => x == vf
  | .addVxVy _ _ => true
  | .sub _ _ => true
  | .shr _ _ => true
  | .subn _ _ => true
  | .shl _ _ => true
  | .sneVxVy _ _ => false
  | .ldINnn _ => false
  | .jpV0 _ => false
  | .rnd x _ => x == vf
  | .drw _ _ _ => true
  | .skp _ => false
  | .sknp _ => false
  | .ldVxDt x => x == vf
  | .ldVxK x => x == vf
  | .ldDtVx _ => false
  | .ldStVx _ => false
  | .addIVx _ => false
  | .ldFVx _ => false
  | .ldBVx _ => false
  | .ldMemVx _ => false
  | .ldVxMem x => x == vf

/-- The instructions that write I: Annn, Fx1E, Fx29 (R25). -/
def writesI (i : Instr) : Prop :=
  (∃ nnn, i = .ldINnn nnn) ∨ (∃ x, i = .addIVx x) ∨ (∃ x, i = .ldFVx x)

/-! ## Shapes of claims about one instruction -/

/-- `exec` completes, `V[x]` ends as the number `r`, and nothing else changes. -/
def SetsReg (i : Instr) (s : State) (x : Reg) (r : Nat) : Prop :=
  ∃ t, exec i s = .next t ∧ (t.reg x).toNat = r ∧ (∀ z, z ≠ x → t.reg z = s.reg z) ∧
    t = { s with v := t.v }

/-- `exec` completes, `V[x]` ends as the number `r`, VF as the flag `f` unless x = 15, and nothing else
changes. -/
def SetsFlagAndReg (i : Instr) (s : State) (f : Nat) (x : Reg) (r : Nat) : Prop :=
  ∃ t, exec i s = .next t ∧ (t.reg x).toNat = r ∧ (x ≠ vf → (t.reg vf).toNat = f) ∧
    (∀ z, z ≠ x → z ≠ vf → t.reg z = s.reg z) ∧ t = { s with v := t.v }

/-- `exec` completes with a skip when the condition holds, and nothing else changes (R126). -/
def SkipsWhen (i : Instr) (s : State) (c : Prop) : Prop :=
  (c → exec i s = .next { s with pc := s.pc + 2 }) ∧ (¬c → exec i s = .next s)

/-- `exec` takes the fault: FAULT is set, PC is `p` again where it held `p + 2`, and nothing else
changes (R220). -/
def TakesFault (i : Instr) (s : State) (c : Cause) : Prop :=
  ∀ p, s.pc = p + 2 → exec i s = .next { s with pc := p, fault := c }

end Sys2Proof.Machine
end

