-- ==== Sys2Proof/Certificates/Slice0/Obligations.lean ====
section
/-! DEFINITION. The statements for the provers. A statement about `exec` speaks of the state on entry
to a handler, where PC holds p + 2 (41_control_flow.md, before R140); a frame `t = { s with v := t.v }`
says that every other element of the state is unchanged. -/

open Sys2Proof Sys2Proof.Machine

/-! ## Encoding -/

/-- Words written out from the patterns of R99, of several families, decode to what they stand for. -/
def Obligations.SpecWordsDecode : Prop :=
  decodeWord 0x00E0#16 = some .cls ∧ decodeWord 0x00EE#16 = some .ret ∧
  decodeWord 0x1234#16 = some (.jp 0x234) ∧ decodeWord 0x3A05#16 = some (.seVxKk 10 5) ∧
  decodeWord 0x8AF0#16 = some (.ldVxVy 10 15) ∧ decodeWord 0x8076#16 = some (.shr 0 7) ∧
  decodeWord 0xD125#16 = some (.drw 1 2 5) ∧ decodeWord 0xE1A1#16 = some (.sknp 1) ∧
  decodeWord 0xF265#16 = some (.ldVxMem 2) ∧ decodeWord 0x0123#16 = none ∧
  decodeWord 0x5121#16 = none ∧ decodeWord 0x8018#16 = none ∧ decodeWord 0xF1FF#16 = none

/-- No bit of an encoding is dropped: the bytes of any instruction decode to it, whatever follows. -/
def Obligations.DecodeOfEncode : Prop :=
  ∀ (i : Instr) (rest : List Byte), decode (encodeBytes i ++ rest) = .ok (i, rest)

/-- A word has at most one meaning, and that meaning's encoding is the word. -/
def Obligations.EncodeOfDecode : Prop :=
  ∀ (w : Word) (i : Instr), decodeWord w = some i → encode i = w

/-- Decoding is the row of R99 whose match and mask the word satisfies, that row is the only one, and a
word that satisfies none decodes to nothing (the last sentences of R123, with the spec's decision D5 for
families 5 and 9). -/
def Obligations.DecodeIsTheOpcodeMap : Prop :=
  ∀ w : Word,
    (∀ i, decodeWord w = some i →
      i.row ∈ opcodeTable ∧ i.row.matchesWord w = true ∧
        (∀ r ∈ opcodeTable, r.matchesWord w = true → r = i.row) ∧ encode i = w) ∧
    (decodeWord w = none ↔ ∀ r ∈ opcodeTable, r.matchesWord w = false)

/-- The illegal words, family by family, as the table of R101, which the spec derives from R99, lists
them (without its counts). -/
def Obligations.IllegalWordsByFamily : Prop :=
  ∀ w : Word, decodeWord w = none ↔
    (opFamily w = 0x0 ∧ w ≠ 0x00E0 ∧ w ≠ 0x00EE) ∨
    (opFamily w = 0x5 ∧ opN w ≠ 0) ∨
    (opFamily w = 0x8 ∧ (opN w = 0x8 ∨ opN w = 0x9 ∨ opN w = 0xA ∨ opN w = 0xB ∨ opN w = 0xC ∨
      opN w = 0xD ∨ opN w = 0xF)) ∨
    (opFamily w = 0x9 ∧ opN w ≠ 0) ∨
    (opFamily w = 0xE ∧ opKk w ≠ 0x9E ∧ opKk w ≠ 0xA1) ∨
    (opFamily w = 0xF ∧ opKk w ≠ 0x07 ∧ opKk w ≠ 0x0A ∧ opKk w ≠ 0x15 ∧ opKk w ≠ 0x18 ∧
      opKk w ≠ 0x1E ∧ opKk w ≠ 0x29 ∧ opKk w ≠ 0x33 ∧ opKk w ≠ 0x55 ∧ opKk w ≠ 0x65)

/-! ## The cycle -/

/-- When a cycle runs and the bytes at PC decode to an instruction, the step is that instruction's
`exec`, with the event taken off the schedule (the model's convention, log 1), OPCODE holding the word
and PC advanced by 2. -/
def Obligations.StepRunsTheDecodedInstruction : Prop :=
  ∀ (s : State) (i : Instr) (rest : List Byte),
    s.running = true → s.pc.toNat ≤ 4094 → s.pc.toNat % 2 = 0 →
    decode [s.mem.read s.pc.toNat, s.mem.read (s.pc.toNat + 1)] = .ok (i, rest) →
    step s = exec i
      { s.popEvent with
        opcode := wordOfBytes (s.mem.read s.pc.toNat) (s.mem.read (s.pc.toNat + 1))
        pc := s.pc + 2 }

/-- A step issues the next event of the schedule: the first listed one; with none listed, the first of
the recurring ones, or the next of the free sequence; when no event is to come, nothing happens. The
four forms are the model's own (log 1). -/
def Obligations.StepIssuesTheNextEvent : Prop :=
  (∀ (s : State) (e : Event) (rest : List Event) (l : Later), s.schedule = ⟨e :: rest, l⟩ →
    step s = ({ s with schedule := ⟨rest, l⟩ } : State).event e) ∧
  (∀ (s : State) (e : Event) (rest : List Event), s.schedule = ⟨[], .again e rest⟩ →
    step s = ({ s with schedule := ⟨rest, .again e rest⟩ } : State).event e) ∧
  (∀ (s : State) (k : Nat), s.schedule = ⟨[], .free k⟩ →
    step s = ({ s with schedule := ⟨[], .free (k + 1)⟩ } : State).event (Config.freeEvent k)) ∧
  (∀ s : State, s.schedule = ⟨[], .stop⟩ → step s = .next s)

/-- The two checks of fetch in their order (R121; the second is the spec's decision D6), and the word
fetched, high byte first (R63). -/
def Obligations.FetchChecksThenWord : Prop :=
  ∀ s : State, s.fault = .none →
    (s.pc.toNat + 1 > 4095 → s.event .cycle = .next { s with fault := .fetchOutOfRange }) ∧
    (s.pc.toNat + 1 ≤ 4095 → s.pc.toNat % 2 = 1 →
      s.event .cycle = .next { s with fault := .pcMisaligned }) ∧
    (s.pc.toNat + 1 ≤ 4095 → s.pc.toNat % 2 = 0 →
      ∃ t, s.event .cycle = .next t ∧
        t.opcode.toNat =
          256 * (s.mem.read s.pc.toNat).toNat + (s.mem.read (s.pc.toNat + 1)).toNat)

/-- R100, R213: a fetched word that satisfies no row of the opcode map raises UNIMPLEMENTED_OPCODE; PC
keeps the address of the word, OPCODE holds it, and nothing else changes. -/
def Obligations.IllegalWordFaults : Prop :=
  ∀ s : State, s.fault = .none → s.pc.toNat + 1 ≤ 4095 → s.pc.toNat % 2 = 0 →
    (∀ r ∈ opcodeTable,
      r.matchesWord (wordOfBytes (s.mem.read s.pc.toNat) (s.mem.read (s.pc.toNat + 1))) = false) →
    s.event .cycle =
      .next { s with
        opcode := wordOfBytes (s.mem.read s.pc.toNat) (s.mem.read (s.pc.toNat + 1))
        fault := .unimplementedOpcode }

/-- While FAULT is not 0 a cycle changes nothing, and the other events still act (R222; the spec's
decisions D14 and D22). -/
def Obligations.HaltedCoreOnlyTakesHostEvents : Prop :=
  ∀ s : State, s.fault ≠ .none →
    s.event .cycle = .next s ∧
    (∃ t, s.event .timerTick = .next t ∧ t.dt.toNat = s.dt.toNat - 1 ∧ t.st.toNat = s.st.toNat - 1 ∧
      t = { s with dt := t.dt, st := t.st }) ∧
    (∀ k, s.event (.setKeys k) = .next { s with keys := k }) ∧
    s.event .ackRedraw = .next { s with redraw := false }

/-- A cycle that raises a fault changes only FAULT and, where the fetch checks passed, OPCODE, which
then holds the fetched word (R220, R13; the spec's decision D12). -/
def Obligations.FaultsArePrecise : Prop :=
  ∀ s t : State, s.fault = .none → s.event .cycle = .next t → t.fault ≠ .none →
    t = { s with
      fault := t.fault
      opcode :=
        if s.pc.toNat + 1 ≤ 4095 ∧ s.pc.toNat % 2 = 0 then
          wordOfBytes (s.mem.read s.pc.toNat) (s.mem.read (s.pc.toNat + 1))
        else s.opcode }

/-- The codes (R210; the spec's decision D11), and the fault of a cycle is the first check that fails:
fetch range, fetch alignment, decode, then the one check of the instruction (R219; the spec's decision
D13). -/
def Obligations.FaultCausesInPriorityOrder : Prop :=
  (Cause.code .none = 0 ∧ Cause.code .fetchOutOfRange = 1 ∧ Cause.code .pcMisaligned = 2 ∧
    Cause.code .unimplementedOpcode = 3 ∧ Cause.code .stackOverflow = 4 ∧
    Cause.code .stackUnderflow = 5 ∧ Cause.code .addressOutOfRange = 6 ∧
    Cause.code .keyIndexOutOfRange = 7) ∧
  ∀ s : State, s.fault = .none → ∃ t, s.event .cycle = .next t ∧ t.fault = cycleCause s

/-- FAULT, once set, is changed by no event but `Reset`, which clears it (R32, R223; the spec's
decisions D11 and D14). -/
def Obligations.FaultIsSticky : Prop :=
  ∀ (s t : State) (e : Event), s.fault ≠ .none → s.event e = .next t →
    (e = .reset → t.fault = .none) ∧ (e ≠ .reset → t.fault = s.fault)

/-- Every instruction completes or takes a fault of the spec in every state (R120), and a fault is a
next state (R13, R220; the model's reading, log 5): no form is refused. A step, of the model's schedule
(log 1), has no next state only when the next event is a `LoadROM` of more than 3584 bytes (R253; the
spec's decision D23; log 14). -/
def Obligations.OnlyAnOversizedImageIsRefused : Prop :=
  (∀ (i : Instr) (s : State), ∃ t, exec i s = .next t) ∧
  (∀ s : State, (∃ t, step s = .next t) ∨
    ∃ bytes c, s.schedule.next = some (.loadRom bytes, c) ∧ 3584 < bytes.length ∧
      step s = .refused .romImageTooLong)

/-! ## Invariants and whole-machine rules -/

/-- Every step keeps the invariants of R41, which the spec derives from its other rules, and the model's
canonical form of memory. -/
def Obligations.EveryStepKeepsTheInvariant : Prop :=
  ∀ s t : State, s.Inv → step s = .next t → t.Inv

/-- The state after reset meets the invariant. -/
def Obligations.ResetMeetsTheInvariant : Prop := State.reset.Inv

/-- A byte written is read back, every other byte reads as before, and the canonical form is kept. -/
def Obligations.MemoryReadAfterWrite : Prop :=
  ∀ (m : Memory) (a : Nat) (b : Byte), m.wf = true → a < 4096 →
    (m.write a b).wf = true ∧ (m.write a b).font = m.font ∧
    ∀ c, (m.write a b).read c = if c = a then b else m.read c

/-- Canonical memories with the same FONT that read the same are the same data. -/
def Obligations.EqualMemoriesAreEqualData : Prop :=
  ∀ m m' : Memory, m.wf = true → m'.wf = true → m.font = m'.font →
    (∀ a, a < 4096 → m.read a = m'.read a) → m = m'

/-- R35: which event and which instruction can change which element of the state. -/
def Obligations.WhoWritesWhat : Prop :=
  ∀ s t : State,
    (∀ bytes, s.event (.loadRom bytes) = .next t → t = { s with mem := t.mem }) ∧
    (∀ k, s.event (.setKeys k) = .next t → t = { s with keys := t.keys }) ∧
    (s.event .ackRedraw = .next t → t = { s with redraw := t.redraw }) ∧
    (s.event .timerTick = .next t → t = { s with dt := t.dt, st := t.st }) ∧
    (s.event .cycle = .next t →
      t.keys = s.keys ∧
      (t.sp ≠ s.sp ∨ t.stack ≠ s.stack →
        s.nextInstr = some .ret ∨ ∃ nnn, s.nextInstr = some (.call nnn)) ∧
      (t.dt ≠ s.dt → ∃ x, s.nextInstr = some (.ldDtVx x)) ∧
      (t.st ≠ s.st → ∃ x, s.nextInstr = some (.ldStVx x)) ∧
      (t.redraw ≠ s.redraw ∨ t.fb ≠ s.fb →
        s.nextInstr = some .cls ∨ ∃ x y n, s.nextInstr = some (.drw x y n)) ∧
      (t.mem ≠ s.mem →
        (∃ x, s.nextInstr = some (.ldBVx x)) ∨ ∃ x, s.nextInstr = some (.ldMemVx x)))

/-- A cycle does not decrement a timer, clear REDRAW or change KEYS, and takes a random byte only in
Cxkk (R129). The bytes taken are counted by the model's own field draws (log 3). -/
def Obligations.WhatACycleDoesNotDo : Prop :=
  ∀ s t : State, s.event .cycle = .next t →
    (t.dt = s.dt ∨ ∃ x, s.nextInstr = some (.ldDtVx x)) ∧
    (t.st = s.st ∨ ∃ x, s.nextInstr = some (.ldStVx x)) ∧
    (s.redraw = true → t.redraw = true) ∧ t.keys = s.keys ∧
    (t.draws = s.draws ∨ ∃ x kk, s.nextInstr = some (.rnd x kk) ∧ t.draws = s.draws + 1)

/-- Only the instructions of R21 write a V register, only those of R22 or with 15 among their
destinations change VF, and only those of R25 write I. -/
def Obligations.RegisterWriters : Prop :=
  ∀ (i : Instr) (s t : State), exec i s = .next t →
    (writesV i = false → t.v = s.v) ∧ (mayWriteVf i = false → t.reg vf = s.reg vf) ∧
    (¬writesI i → t.i = s.i)

/-- No cycle reads ST, REDRAW or OPCODE: cycles of states that differ only there leave states that
differ only there (R29, R30, R31). -/
def Obligations.SoundTimerRedrawAndOpcodeAreNeverRead : Prop :=
  ∀ (s t : State) (st' : Byte) (redraw' : Bool) (opcode' : Word), s.event .cycle = .next t →
    ∃ t', ({ s with st := st', redraw := redraw', opcode := opcode' } : State).event .cycle = .next t' ∧
      t' = { t with st := t'.st, redraw := t'.redraw, opcode := t'.opcode }

/-! ## Control transfer -/

/-- R140. -/
def Obligations.RetPopsTheReturnAddress : Prop :=
  decodeWord 0x00EE#16 = some .ret ∧
  ∀ s : State,
    (s.sp.val = 0 → TakesFault .ret s .stackUnderflow) ∧
    (∀ k : Fin 16, s.sp.val = k.val + 1 →
      ∃ t, exec .ret s = .next t ∧ t.pc = s.stack[k.val] ∧ t.sp.val = k.val ∧
        t = { s with sp := t.sp, pc := t.pc })

/-- CALL (R142): the value pushed is PC as the handler sees it, p + 2 (the spec's decision D3). -/
def Obligations.CallPushesTheAdvancedPc : Prop :=
  ∀ nnn : Addr12, decodeWord (formatNnn 0x2 nnn) = some (.call nnn) ∧
  ∀ s : State,
    (s.sp.val = 16 → TakesFault (.call nnn) s .stackOverflow) ∧
    (∀ k : Fin 16, s.sp.val = k.val →
      ∃ t, exec (.call nnn) s = .next t ∧ t.stack[k.val] = s.pc ∧
        (∀ j : Fin 16, j ≠ k → t.stack[j.val] = s.stack[j.val]) ∧ t.sp.val = k.val + 1 ∧
        t.pc.toNat = nnn.toNat ∧ t = { s with sp := t.sp, stack := t.stack, pc := t.pc })

/-- A CALL and then a RET with the stack as the CALL left it come back to the address after the CALL, at
the old depth, with the older entries as they were (R140, R142). -/
def Obligations.RetUndoesCall : Prop :=
  ∀ (s t t' : State) (nnn : Addr12), s.sp.val < 16 → exec (.call nnn) s = .next t →
    t'.sp = t.sp → t'.stack = t.stack →
    ∃ u, exec .ret t' = .next u ∧ u.pc = s.pc ∧ u.sp = s.sp ∧
      ∀ j : Fin 16, j.val < s.sp.val → u.stack[j.val] = s.stack[j.val]

/-- R141: PC takes the target, unchecked. An odd target up to 4093, and 0xFFF, fault at the next fetch;
a jump to its own address is a fixed point: the cycle changes OPCODE at most, and every later cycle
changes nothing. -/
def Obligations.JumpTakesTheTarget : Prop :=
  ∀ (nnn : Addr12) (s : State), decodeWord (formatNnn 0x1 nnn) = some (.jp nnn) ∧
    (∃ t, exec (.jp nnn) s = .next t ∧ t.pc.toNat = nnn.toNat ∧ t = { s with pc := t.pc } ∧
      (s.fault = .none → nnn.toNat % 2 = 1 → nnn.toNat ≤ 4093 →
        t.event .cycle = .next { t with fault := .pcMisaligned }) ∧
      (s.fault = .none → nnn.toNat = 0xFFF →
        t.event .cycle = .next { t with fault := .fetchOutOfRange })) ∧
    (s.fault = .none → s.pc.toNat = nnn.toNat → nnn.toNat % 2 = 0 →
      wordOfBytes (s.mem.read s.pc.toNat) (s.mem.read (s.pc.toNat + 1)) = formatNnn 0x1 nnn →
      s.event .cycle = .next { s with opcode := formatNnn 0x1 nnn } ∧
      ({ s with opcode := formatNnn 0x1 nnn } : State).event .cycle =
        .next { s with opcode := formatNnn 0x1 nnn })

/-- R143: the target is nnn + V0, not reduced; the offset register is V0 whatever nnn is. -/
def Obligations.JumpWithOffsetAddsV0 : Prop :=
  ∀ (nnn : Addr12) (s : State), decodeWord (formatNnn 0xB nnn) = some (.jpV0 nnn) ∧
    ∃ t, exec (.jpV0 nnn) s = .next t ∧ t.pc.toNat = nnn.toNat + (s.reg 0).toNat ∧
      t = { s with pc := t.pc }

/-! ## Skips -/

/-- R150 to R153. -/
def Obligations.RegisterSkips : Prop :=
  ∀ (x y : Reg) (kk : Byte) (s : State),
    decodeWord (formatXkk 0x3 x kk) = some (.seVxKk x kk) ∧
    SkipsWhen (.seVxKk x kk) s ((s.reg x).toNat = kk.toNat) ∧
    decodeWord (formatXkk 0x4 x kk) = some (.sneVxKk x kk) ∧
    SkipsWhen (.sneVxKk x kk) s ((s.reg x).toNat ≠ kk.toNat) ∧
    decodeWord (formatXyn 0x5 x y 0) = some (.seVxVy x y) ∧
    SkipsWhen (.seVxVy x y) s ((s.reg x).toNat = (s.reg y).toNat) ∧
    decodeWord (formatXyn 0x9 x y 0) = some (.sneVxVy x y) ∧
    SkipsWhen (.sneVxVy x y) s ((s.reg x).toNat ≠ (s.reg y).toNat)

/-- SKP, SKNP (R200, R201): the key is the one whose number is in `V[x]`; a number above 15 faults (the
spec's decision D10). -/
def Obligations.KeySkips : Prop :=
  ∀ (x : Reg) (s : State),
    decodeWord (formatXkk 0xE x 0x9E) = some (.skp x) ∧
    decodeWord (formatXkk 0xE x 0xA1) = some (.sknp x) ∧
    ((s.reg x).toNat ≤ 15 → SkipsWhen (.skp x) s (s.keys.getLsbD (s.reg x).toNat = true) ∧
      SkipsWhen (.sknp x) s (s.keys.getLsbD (s.reg x).toNat = false)) ∧
    ((s.reg x).toNat > 15 → TakesFault (.skp x) s .keyIndexOutOfRange ∧
      TakesFault (.sknp x) s .keyIndexOutOfRange)

/-! ## Load, arithmetic, logic, shift, random -/

/-- R161 to R166: the destination's new value; no flag, no fault, nothing else changes. -/
def Obligations.LoadAddAndLogic : Prop :=
  ∀ (x y : Reg) (kk : Byte) (s : State),
    (decodeWord (formatXkk 0x6 x kk) = some (.ldVxKk x kk) ∧ SetsReg (.ldVxKk x kk) s x kk.toNat) ∧
    (decodeWord (formatXkk 0x7 x kk) = some (.addVxKk x kk) ∧
      SetsReg (.addVxKk x kk) s x (((s.reg x).toNat + kk.toNat) % 256)) ∧
    (decodeWord (formatXyn 0x8 x y 0x0) = some (.ldVxVy x y) ∧
      SetsReg (.ldVxVy x y) s x (s.reg y).toNat) ∧
    (decodeWord (formatXyn 0x8 x y 0x1) = some (.orVxVy x y) ∧
      SetsReg (.orVxVy x y) s x ((s.reg x).toNat ||| (s.reg y).toNat)) ∧
    (decodeWord (formatXyn 0x8 x y 0x2) = some (.andVxVy x y) ∧
      SetsReg (.andVxVy x y) s x ((s.reg x).toNat &&& (s.reg y).toNat)) ∧
    (decodeWord (formatXyn 0x8 x y 0x3) = some (.xorVxVy x y) ∧
      SetsReg (.xorVxVy x y) s x ((s.reg x).toNat ^^^ (s.reg y).toNat))

/-- R167: the sum modulo 256 and the carry, operands read before either write. -/
def Obligations.AddWithCarryOut : Prop :=
  ∀ (x y : Reg) (s : State),
    decodeWord (formatXyn 0x8 x y 0x4) = some (.addVxVy x y) ∧
    SetsFlagAndReg (.addVxVy x y) s (if (s.reg x).toNat + (s.reg y).toNat > 255 then 1 else 0) x
      (((s.reg x).toNat + (s.reg y).toNat) % 256)

/-- R168, R170: the difference modulo 256 and the strict comparison (equal operands give 0). With 15 as
an operand the rules' own corner cases rest on the operand latch, the spec's decision D4. -/
def Obligations.SubtractWithStrictFlag : Prop :=
  ∀ (x y : Reg) (s : State),
    (decodeWord (formatXyn 0x8 x y 0x5) = some (.sub x y) ∧
      SetsFlagAndReg (.sub x y) s (if (s.reg x).toNat > (s.reg y).toNat then 1 else 0) x
        ((256 + (s.reg x).toNat - (s.reg y).toNat) % 256)) ∧
    (decodeWord (formatXyn 0x8 x y 0x7) = some (.subn x y) ∧
      SetsFlagAndReg (.subn x y) s (if (s.reg y).toNat > (s.reg x).toNat then 1 else 0) x
        ((256 + (s.reg y).toNat - (s.reg x).toNat) % 256))

/-- R169, R171: the shifted value and the bit shifted out; the y field changes nothing. With x = 15 the
rules' own corner case rests on the operand latch, the spec's decision D4. -/
def Obligations.ShiftsInPlace : Prop :=
  ∀ (x y : Reg) (s : State),
    (decodeWord (formatXyn 0x8 x y 0x6) = some (.shr x y) ∧
      SetsFlagAndReg (.shr x y) s ((s.reg x).toNat % 2) x ((s.reg x).toNat / 2)) ∧
    (decodeWord (formatXyn 0x8 x y 0xE) = some (.shl x y) ∧
      SetsFlagAndReg (.shl x y) s ((s.reg x).toNat / 128) x ((s.reg x).toNat * 2 % 256))

/-- R172: the and of the mask and the byte the random source returns, whatever that byte is (the free
value of log 3); one byte is taken. -/
def Obligations.RandomAnd : Prop :=
  ∀ (x : Reg) (kk : Byte) (s : State),
    decodeWord (formatXkk 0xC x kk) = some (.rnd x kk) ∧
    ∃ t, exec (.rnd x kk) s = .next t ∧ t.reg x = Config.randomByte s.draws &&& kk ∧
      (∀ z, z ≠ x → t.reg z = s.reg z) ∧ t = { s with v := t.v, draws := s.draws + 1 }

/-! ## Index and memory -/

/-- R180, R182: the new I, with all eight bits of `V[x]`; no flag, no fault, nothing else changes. -/
def Obligations.IndexRegisterLoads : Prop :=
  ∀ (nnn : Addr12) (x : Reg) (s : State),
    (decodeWord (formatNnn 0xA nnn) = some (.ldINnn nnn) ∧
      ∃ t, exec (.ldINnn nnn) s = .next t ∧ t.i.toNat = nnn.toNat ∧ t = { s with i := t.i }) ∧
    (decodeWord (formatXkk 0xF x 0x29) = some (.ldFVx x) ∧
      ∃ t, exec (.ldFVx x) s = .next t ∧ t.i.toNat = 0x0050 + 5 * (s.reg x).toNat ∧
        t = { s with i := t.i })

/-- Fx1E (R181): the sum, reduced only at the width of I (the spec's decision D8); no flag, no fault,
nothing else changes. -/
def Obligations.AddToIndexWrapsAt16Bits : Prop :=
  ∀ (x : Reg) (s : State), decodeWord (formatXkk 0xF x 0x1E) = some (.addIVx x) ∧
    ∃ t, exec (.addIVx x) s = .next t ∧ t.i.toNat = (s.i.toNat + (s.reg x).toNat) % 65536 ∧
      t = { s with i := t.i }

/-- R183: the three digits at I, I + 1, I + 2, every other byte as before; the fault where the span
passes 4095. `mem.wf` is an invariant (EveryStepKeepsTheInvariant). -/
def Obligations.BcdStoresThreeDigits : Prop :=
  ∀ (x : Reg) (s : State), decodeWord (formatXkk 0xF x 0x33) = some (.ldBVx x) ∧
    (s.i.toNat + 2 > 4095 → TakesFault (.ldBVx x) s .addressOutOfRange) ∧
    (s.i.toNat + 2 ≤ 4095 → s.mem.wf = true →
      ∃ t, exec (.ldBVx x) s = .next t ∧
        (t.mem.read s.i.toNat).toNat = (s.reg x).toNat / 100 ∧
        (t.mem.read (s.i.toNat + 1)).toNat = (s.reg x).toNat / 10 % 10 ∧
        (t.mem.read (s.i.toNat + 2)).toNat = (s.reg x).toNat % 10 ∧
        (∀ a, a < s.i.toNat ∨ s.i.toNat + 2 < a → t.mem.read a = s.mem.read a) ∧
        t = { s with mem := t.mem })

/-- Fx55 (R184): `V[0]` to `V[x]` at I to I + x, every other byte as before; the fault where the span
passes 4095 (the spec's decision D9); I as before (D27). -/
def Obligations.StoreBlock : Prop :=
  ∀ (x : Reg) (s : State), decodeWord (formatXkk 0xF x 0x55) = some (.ldMemVx x) ∧
    (s.i.toNat + x.toNat > 4095 → TakesFault (.ldMemVx x) s .addressOutOfRange) ∧
    (s.i.toNat + x.toNat ≤ 4095 → s.mem.wf = true →
      ∃ t, exec (.ldMemVx x) s = .next t ∧
        (∀ k : Reg, k.toNat ≤ x.toNat → t.mem.read (s.i.toNat + k.toNat) = s.reg k) ∧
        (∀ a, a < s.i.toNat ∨ s.i.toNat + x.toNat < a → t.mem.read a = s.mem.read a) ∧
        t = { s with mem := t.mem })

/-- Fx65 (R185): `V[0]` to `V[x]` from I to I + x, the registers above x as before; the fault where the
span passes 4095 (the spec's decision D9); I as before (D27). -/
def Obligations.LoadBlock : Prop :=
  ∀ (x : Reg) (s : State), decodeWord (formatXkk 0xF x 0x65) = some (.ldVxMem x) ∧
    (s.i.toNat + x.toNat > 4095 → TakesFault (.ldVxMem x) s .addressOutOfRange) ∧
    (s.i.toNat + x.toNat ≤ 4095 →
      ∃ t, exec (.ldVxMem x) s = .next t ∧
        (∀ k : Reg, k.toNat ≤ x.toNat → t.reg k = s.mem.read (s.i.toNat + k.toNat)) ∧
        (∀ k : Reg, x.toNat < k.toNat → t.reg k = s.reg k) ∧ t = { s with v := t.v })

/-- Fx55 and then Fx65 for the same x and I, with memory left alone in between, restore the registers
(R184, R185). -/
def Obligations.LoadRestoresWhatStoreSaved : Prop :=
  ∀ (x : Reg) (s t t' : State), s.mem.wf = true → s.i.toNat + x.toNat ≤ 4095 →
    exec (.ldMemVx x) s = .next t → t'.mem = t.mem → t'.i = s.i →
    ∃ u, exec (.ldVxMem x) t' = .next u ∧ ∀ k : Reg, k.toNat ≤ x.toNat → u.reg k = s.reg k

/-- A word stored by Fx55 is what the next fetch from its address reads, V register of the lower address
in the high byte (R64, R73, which the spec derives). -/
def Obligations.FetchSeesTheStoredWord : Prop :=
  ∀ (x k : Reg) (s t t' : State), s.mem.wf = true → s.i.toNat + x.toNat ≤ 4095 →
    exec (.ldMemVx x) s = .next t → k.toNat + 1 ≤ x.toNat → t'.mem = t.mem →
    t'.pc.toNat = s.i.toNat + k.toNat →
    t'.fetchWord.toNat = 256 * (s.reg k).toNat + (s.reg (k + 1)).toNat

/-! ## Display -/

/-- R190. -/
def Obligations.ClearScreen : Prop :=
  decodeWord 0x00E0#16 = some .cls ∧
  ∀ s : State, ∃ t, exec .cls s = .next t ∧ (∀ y x, pixel t.fb y x = false) ∧ t.redraw = true ∧
    t = { s with fb := t.fb, redraw := t.redraw }

/-- Dxyn (R191 to R194): each pixel is XORed exactly when the sprite covers it, with both coordinates
wrapped; VF is 1 if a covered pixel was on and 0 otherwise; REDRAW is set; nothing else changes. The
span check is made for n ≥ 1 and comes before everything (the spec's decisions D9 and D15). -/
def Obligations.DrawSprite : Prop :=
  ∀ (x y : Reg) (n : Nibble) (s : State), decodeWord (formatXyn 0xD x y n) = some (.drw x y n) ∧
    (n.toNat ≥ 1 ∧ s.i.toNat + n.toNat - 1 > 4095 → TakesFault (.drw x y n) s .addressOutOfRange) ∧
    (n.toNat = 0 ∨ s.i.toNat + n.toNat - 1 ≤ 4095 →
      ∃ t, exec (.drw x y n) s = .next t ∧
        (∀ py px, spriteCovers s x y n py px → pixel t.fb py px = !pixel s.fb py px) ∧
        (∀ py px, ¬spriteCovers s x y n py px → pixel t.fb py px = pixel s.fb py px) ∧
        ((∃ py px, spriteCovers s x y n py px ∧ pixel s.fb py px = true) → t.reg vf = 1) ∧
        ((¬∃ py px, spriteCovers s x y n py px ∧ pixel s.fb py px = true) → t.reg vf = 0) ∧
        (∀ z, z ≠ vf → t.reg z = s.reg z) ∧ t.redraw = true ∧
        t = { s with v := t.v, fb := t.fb, redraw := t.redraw })

/-- The XOR law (R195, which the spec derives from R191): every completed draw sets REDRAW, and a second
draw with the same coordinates, n, I and memory restores the frame buffer. The first ends with VF = 1
exactly when a covered pixel was on at the start, the second exactly when one was off at the start. -/
def Obligations.DrawingTwiceRestores : Prop :=
  ∀ (x y : Reg) (n : Nibble) (s s2 : State), n.toNat = 0 ∨ s.i.toNat + n.toNat - 1 ≤ 4095 →
    ∃ t, exec (.drw x y n) s = .next t ∧ t.redraw = true ∧
      (t.reg vf = 1 ↔ ∃ py px, spriteCovers s x y n py px ∧ pixel s.fb py px = true) ∧
      (s2.fb = t.fb → s2.i = s.i → s2.mem = s.mem → s2.reg x = s.reg x → s2.reg y = s.reg y →
        ∃ u, exec (.drw x y n) s2 = .next u ∧ u.fb = s.fb ∧ u.redraw = true ∧
          (u.reg vf = 1 ↔ ∃ py px, spriteCovers s x y n py px ∧ pixel s.fb py px = false))

/-! ## Keypad and timers -/

/-- R202: with no key pressed PC goes back to p and nothing else changes; else `V[x]` takes the number
of the lowest pressed key. -/
def Obligations.WaitForKey : Prop :=
  ∀ (x : Reg) (s : State), decodeWord (formatXkk 0xF x 0x0A) = some (.ldVxK x) ∧
    (s.keys = 0 → ∀ p, s.pc = p + 2 → exec (.ldVxK x) s = .next { s with pc := p }) ∧
    (∀ k : Fin 16, s.keys.getLsbD k.val = true → (∀ j, j < k.val → s.keys.getLsbD j = false) →
      SetsReg (.ldVxK x) s x k.val)

/-- R203, R204, R205. -/
def Obligations.TimerInstructions : Prop :=
  ∀ (x : Reg) (s : State),
    (decodeWord (formatXkk 0xF x 0x07) = some (.ldVxDt x) ∧ SetsReg (.ldVxDt x) s x s.dt.toNat) ∧
    (decodeWord (formatXkk 0xF x 0x15) = some (.ldDtVx x) ∧
      exec (.ldDtVx x) s = .next { s with dt := s.reg x }) ∧
    (decodeWord (formatXkk 0xF x 0x18) = some (.ldStVx x) ∧
      exec (.ldStVx x) s = .next { s with st := s.reg x } ∧
      ({ s with st := s.reg x } : State).tone = decide ((s.reg x).toNat ≠ 0))

/-- R226: each timer goes down by 1 and stops at 0; nothing else changes, in every state. -/
def Obligations.TimerTickCountsDown : Prop :=
  ∀ s : State, ∃ t, s.event .timerTick = .next t ∧
    (s.dt.toNat > 0 → t.dt.toNat = s.dt.toNat - 1) ∧ (s.dt.toNat = 0 → t.dt.toNat = 0) ∧
    (s.st.toNat > 0 → t.st.toNat = s.st.toNat - 1) ∧ (s.st.toNat = 0 → t.st.toNat = 0) ∧
    t = { s with dt := t.dt, st := t.st }

/-- A timer that n ticks have followed has gone down by n, or is at 0 (R204, R226). The ticks stand in
the model's own schedule (log 1). -/
def Obligations.TicksRunATimerOut : Prop :=
  ∀ (s t : State) (n : Nat) (rest : List Event), s.schedule.events = List.replicate n .timerTick ++ rest →
    steps n s = .next t →
    t.dt.toNat = s.dt.toNat - n ∧ t.st.toNat = s.st.toNat - n ∧
      t = { s with dt := t.dt, st := t.st, schedule := { s.schedule with events := rest } }

/-! ## Events and ports -/

/-- The keypad and redraw events, and what the display and audio ports show (R231, R232, R233; the order
of the display port is the spec's decision D16). -/
def Obligations.HostEventsAndPorts : Prop :=
  ∀ s : State,
    (∀ k, s.event (.setKeys k) = .next { s with keys := k }) ∧
    s.event .ackRedraw = .next { s with redraw := false } ∧
    (∀ (y : Fin 32) (x : Fin 64) (k : Fin 2048), k.val = y.val * 64 + x.val →
      s.fbPort k = pixel s.fb y x) ∧
    s.redrawPort = s.redraw ∧ (s.tone = true ↔ s.st.toNat ≠ 0)

/-- The state after `Reset`, whatever the state before it and whatever the FONT (R250; the spec's
decision D23). -/
def Obligations.ResetFromAnyState : Prop :=
  ∀ s : State, ∃ t, s.event .reset = .next t ∧
    (∀ x, t.reg x = 0) ∧ t.i = 0 ∧ t.pc = 0x0200#16 ∧ t.sp.val = 0 ∧
    (∀ k : Fin 16, t.stack[k.val] = 0) ∧ t.dt = 0 ∧ t.st = 0 ∧ t.opcode = 0 ∧ t.redraw = false ∧
    t.fault = .none ∧ t.keys = 0 ∧
    (∀ k : Fin 80, t.mem.read (0x050 + k.val) = s.mem.font[k.val]) ∧
    (∀ a, a < 0x050 ∨ 0x09F < a → t.mem.read a = 0) ∧ (∀ y x, pixel t.fb y x = false)

/-- An image of at most 3584 bytes is written at 0x200 on, every other byte and everything else as
before (R252); a longer one has no step (R253; the spec's decision D23). -/
def Obligations.LoadRomWritesTheImage : Prop :=
  ∀ (s : State) (bytes : List Byte),
    (bytes.length ≤ 3584 → s.mem.wf = true →
      ∃ t, s.event (.loadRom bytes) = .next t ∧
        (∀ (k : Nat) (hk : k < bytes.length), t.mem.read (0x200 + k) = bytes[k]) ∧
        (∀ a, a < 0x200 ∨ 0x200 + bytes.length ≤ a → t.mem.read a = s.mem.read a) ∧
        t = { s with mem := t.mem }) ∧
    (3584 < bytes.length → s.event (.loadRom bytes) = .refused .romImageTooLong)

/-- What the spec derives in R256: after `Reset`, and with no image or an empty one, the first cycle
raises UNIMPLEMENTED_OPCODE with PC = 0x200 and OPCODE = 0, whatever the state before the reset and
whatever the FONT. -/
def Obligations.NoProgramFaultsAtOnce : Prop :=
  ∀ s t u : State, s.event .reset = .next t → t.event (.loadRom []) = .next u →
    (∃ t', t.event .cycle = .next t' ∧ t'.fault = .unimplementedOpcode ∧ t'.pc = 0x200#16 ∧
      t'.opcode = 0) ∧
    (∃ u', u.event .cycle = .next u' ∧ u'.fault = .unimplementedOpcode ∧ u'.pc = 0x200#16 ∧
      u'.opcode = 0)

/-- No event changes what is still to come, and recurring events recur without end: once each has been
issued the schedule is as it was (R7; the model's form of the schedule, log 1). -/
def Obligations.RecurringEventsRecur : Prop :=
  (∀ (s t : State) (e : Event), s.event e = .next t → t.schedule = s.schedule) ∧
  ∀ (s t : State) (e : Event) (rest : List Event), s.schedule = ⟨[], .again e rest⟩ →
    steps (rest.length + 1) s = .next t → t.schedule = s.schedule
end

