-- ==== Sys2Proof/Laws/Decode.lean ====
section
/-! SUPPORT. The fields of a word built in a format, and the word built from its own fields
(30_encoding.md R91 to R97). -/

namespace Sys2Proof

section
variable (f : BitVec 4) (nnn : Addr12)

@[simp] theorem opFamily_formatNnn : opFamily (formatNnn f nnn) = f := by
  unfold opFamily formatNnn
  ext i hi
  interval_cases i <;> simp [BitVec.getElem_setWidth]

@[simp] theorem opNnn_formatNnn : opNnn (formatNnn f nnn) = nnn := by
  unfold opNnn formatNnn
  ext i hi
  interval_cases i <;> simp [BitVec.getElem_setWidth]

end

section
variable (f : BitVec 4) (x : Reg) (kk : Byte)

@[simp] theorem opFamily_formatXkk : opFamily (formatXkk f x kk) = f := by
  unfold opFamily formatXkk
  ext i hi
  interval_cases i <;> simp [BitVec.getElem_setWidth]

@[simp] theorem opX_formatXkk : opX (formatXkk f x kk) = x := by
  unfold opX formatXkk
  ext i hi
  interval_cases i <;> simp [BitVec.getElem_setWidth]

@[simp] theorem opKk_formatXkk : opKk (formatXkk f x kk) = kk := by
  unfold opKk formatXkk
  ext i hi
  interval_cases i <;> simp [BitVec.getElem_setWidth]

end

section
variable (f : BitVec 4) (x y : Reg) (n : Nibble)

@[simp] theorem opFamily_formatXyn : opFamily (formatXyn f x y n) = f := by
  unfold opFamily formatXyn
  ext i hi
  interval_cases i <;> simp [BitVec.getElem_setWidth]

@[simp] theorem opX_formatXyn : opX (formatXyn f x y n) = x := by
  unfold opX formatXyn
  ext i hi
  interval_cases i <;> simp [BitVec.getElem_setWidth]

@[simp] theorem opY_formatXyn : opY (formatXyn f x y n) = y := by
  unfold opY formatXyn
  ext i hi
  interval_cases i <;> simp [BitVec.getElem_setWidth]

@[simp] theorem opN_formatXyn : opN (formatXyn f x y n) = n := by
  unfold opN formatXyn
  ext i hi
  interval_cases i <;> simp [BitVec.getElem_setWidth]

end

section
variable (op : Word)

theorem formatNnn_fields : formatNnn (opFamily op) (opNnn op) = op := by
  unfold formatNnn opFamily opNnn
  ext i hi
  interval_cases i <;> simp [BitVec.getElem_setWidth]

theorem formatXkk_fields : formatXkk (opFamily op) (opX op) (opKk op) = op := by
  unfold formatXkk opFamily opX opKk
  ext i hi
  interval_cases i <;> simp [BitVec.getElem_setWidth]

theorem formatXyn_fields : formatXyn (opFamily op) (opX op) (opY op) (opN op) = op := by
  unfold formatXyn opFamily opX opY opN
  ext i hi
  interval_cases i <;> simp [BitVec.getElem_setWidth]

/-- A word is its two bytes, high byte first (R63). -/
@[simp] theorem wordOfBytes_bytes : wordOfBytes (highByte op) (lowByte op) = op := by
  unfold wordOfBytes highByte lowByte
  ext i hi
  interval_cases i <;> simp [BitVec.getElem_setWidth]

end

/-- The high byte's weight is 256 (R63). -/
theorem wordOfBytes_toNat (hi lo : Byte) : (wordOfBytes hi lo).toNat = 256 * hi.toNat + lo.toNat := by
  have h1 := hi.isLt
  have h2 := lo.isLt
  have hhi : hi.toNat % 65536 = hi.toNat := by omega
  have hlo : lo.toNat % 65536 = lo.toNat := by omega
  have hsh : hi.toNat <<< 8 % 65536 = hi.toNat <<< 8 := by rw [Nat.shiftLeft_eq]; omega
  simp only [wordOfBytes, BitVec.toNat_or, BitVec.toNat_shiftLeft, BitVec.toNat_setWidth, Nat.reducePow,
    hhi, hlo, hsh]
  rw [← Nat.shiftLeft_add_eq_or_of_lt h2, Nat.shiftLeft_eq]
  omega

end Sys2Proof
end

