-- ==== Sys2Proof/Laws/State.lean ====
section
/-! SUPPORT. One lemma for each field of State under each update, so that no proof unfolds a record
update. -/

namespace Sys2Proof.Machine

section
variable (s : State) (x : Reg) (b : Byte)
@[simp] theorem State.setReg_v : (s.setReg x b).v = s.v.set x.toNat b x.isLt := rfl
@[simp] theorem State.setReg_i : (s.setReg x b).i = s.i := rfl
@[simp] theorem State.setReg_pc : (s.setReg x b).pc = s.pc := rfl
@[simp] theorem State.setReg_sp : (s.setReg x b).sp = s.sp := rfl
@[simp] theorem State.setReg_stack : (s.setReg x b).stack = s.stack := rfl
@[simp] theorem State.setReg_dt : (s.setReg x b).dt = s.dt := rfl
@[simp] theorem State.setReg_st : (s.setReg x b).st = s.st := rfl
@[simp] theorem State.setReg_opcode : (s.setReg x b).opcode = s.opcode := rfl
@[simp] theorem State.setReg_redraw : (s.setReg x b).redraw = s.redraw := rfl
@[simp] theorem State.setReg_fault : (s.setReg x b).fault = s.fault := rfl
@[simp] theorem State.setReg_keys : (s.setReg x b).keys = s.keys := rfl
@[simp] theorem State.setReg_mem : (s.setReg x b).mem = s.mem := rfl
@[simp] theorem State.setReg_fb : (s.setReg x b).fb = s.fb := rfl
@[simp] theorem State.setReg_schedule : (s.setReg x b).schedule = s.schedule := rfl
@[simp] theorem State.setReg_draws : (s.setReg x b).draws = s.draws := rfl
end

section
variable (s : State) (a : Word)
@[simp] theorem State.setI_v : (s.setI a).v = s.v := rfl
@[simp] theorem State.setI_i : (s.setI a).i = a := rfl
@[simp] theorem State.setI_pc : (s.setI a).pc = s.pc := rfl
@[simp] theorem State.setI_sp : (s.setI a).sp = s.sp := rfl
@[simp] theorem State.setI_stack : (s.setI a).stack = s.stack := rfl
@[simp] theorem State.setI_dt : (s.setI a).dt = s.dt := rfl
@[simp] theorem State.setI_st : (s.setI a).st = s.st := rfl
@[simp] theorem State.setI_opcode : (s.setI a).opcode = s.opcode := rfl
@[simp] theorem State.setI_redraw : (s.setI a).redraw = s.redraw := rfl
@[simp] theorem State.setI_fault : (s.setI a).fault = s.fault := rfl
@[simp] theorem State.setI_keys : (s.setI a).keys = s.keys := rfl
@[simp] theorem State.setI_mem : (s.setI a).mem = s.mem := rfl
@[simp] theorem State.setI_fb : (s.setI a).fb = s.fb := rfl
@[simp] theorem State.setI_schedule : (s.setI a).schedule = s.schedule := rfl
@[simp] theorem State.setI_draws : (s.setI a).draws = s.draws := rfl
end

section
variable (s : State) (a : Word)
@[simp] theorem State.setPc_v : (s.setPc a).v = s.v := rfl
@[simp] theorem State.setPc_i : (s.setPc a).i = s.i := rfl
@[simp] theorem State.setPc_pc : (s.setPc a).pc = a := rfl
@[simp] theorem State.setPc_sp : (s.setPc a).sp = s.sp := rfl
@[simp] theorem State.setPc_stack : (s.setPc a).stack = s.stack := rfl
@[simp] theorem State.setPc_dt : (s.setPc a).dt = s.dt := rfl
@[simp] theorem State.setPc_st : (s.setPc a).st = s.st := rfl
@[simp] theorem State.setPc_opcode : (s.setPc a).opcode = s.opcode := rfl
@[simp] theorem State.setPc_redraw : (s.setPc a).redraw = s.redraw := rfl
@[simp] theorem State.setPc_fault : (s.setPc a).fault = s.fault := rfl
@[simp] theorem State.setPc_keys : (s.setPc a).keys = s.keys := rfl
@[simp] theorem State.setPc_mem : (s.setPc a).mem = s.mem := rfl
@[simp] theorem State.setPc_fb : (s.setPc a).fb = s.fb := rfl
@[simp] theorem State.setPc_schedule : (s.setPc a).schedule = s.schedule := rfl
@[simp] theorem State.setPc_draws : (s.setPc a).draws = s.draws := rfl
end

section
variable (s : State) (p : Word) (c : Cause)
@[simp] theorem State.takeFault_v : (s.takeFault p c).v = s.v := rfl
@[simp] theorem State.takeFault_i : (s.takeFault p c).i = s.i := rfl
@[simp] theorem State.takeFault_pc : (s.takeFault p c).pc = p := rfl
@[simp] theorem State.takeFault_sp : (s.takeFault p c).sp = s.sp := rfl
@[simp] theorem State.takeFault_stack : (s.takeFault p c).stack = s.stack := rfl
@[simp] theorem State.takeFault_dt : (s.takeFault p c).dt = s.dt := rfl
@[simp] theorem State.takeFault_st : (s.takeFault p c).st = s.st := rfl
@[simp] theorem State.takeFault_opcode : (s.takeFault p c).opcode = s.opcode := rfl
@[simp] theorem State.takeFault_redraw : (s.takeFault p c).redraw = s.redraw := rfl
@[simp] theorem State.takeFault_fault : (s.takeFault p c).fault = c := rfl
@[simp] theorem State.takeFault_keys : (s.takeFault p c).keys = s.keys := rfl
@[simp] theorem State.takeFault_mem : (s.takeFault p c).mem = s.mem := rfl
@[simp] theorem State.takeFault_fb : (s.takeFault p c).fb = s.fb := rfl
@[simp] theorem State.takeFault_schedule : (s.takeFault p c).schedule = s.schedule := rfl
@[simp] theorem State.takeFault_draws : (s.takeFault p c).draws = s.draws := rfl
end

section
variable (s : State) (c : Cause)
@[simp] theorem State.raise_v : (s.raise c).v = s.v := rfl
@[simp] theorem State.raise_i : (s.raise c).i = s.i := rfl
@[simp] theorem State.raise_pc : (s.raise c).pc = s.pc - 2 := rfl
@[simp] theorem State.raise_sp : (s.raise c).sp = s.sp := rfl
@[simp] theorem State.raise_stack : (s.raise c).stack = s.stack := rfl
@[simp] theorem State.raise_dt : (s.raise c).dt = s.dt := rfl
@[simp] theorem State.raise_st : (s.raise c).st = s.st := rfl
@[simp] theorem State.raise_opcode : (s.raise c).opcode = s.opcode := rfl
@[simp] theorem State.raise_redraw : (s.raise c).redraw = s.redraw := rfl
@[simp] theorem State.raise_fault : (s.raise c).fault = c := rfl
@[simp] theorem State.raise_keys : (s.raise c).keys = s.keys := rfl
@[simp] theorem State.raise_mem : (s.raise c).mem = s.mem := rfl
@[simp] theorem State.raise_fb : (s.raise c).fb = s.fb := rfl
@[simp] theorem State.raise_schedule : (s.raise c).schedule = s.schedule := rfl
@[simp] theorem State.raise_draws : (s.raise c).draws = s.draws := rfl
end

section
variable (s : State)
@[simp] theorem State.fetched_v : (s.fetched).v = s.v := rfl
@[simp] theorem State.fetched_i : (s.fetched).i = s.i := rfl
@[simp] theorem State.fetched_pc : (s.fetched).pc = s.pc + 2 := rfl
@[simp] theorem State.fetched_sp : (s.fetched).sp = s.sp := rfl
@[simp] theorem State.fetched_stack : (s.fetched).stack = s.stack := rfl
@[simp] theorem State.fetched_dt : (s.fetched).dt = s.dt := rfl
@[simp] theorem State.fetched_st : (s.fetched).st = s.st := rfl
@[simp] theorem State.fetched_opcode : (s.fetched).opcode = s.fetchWord := rfl
@[simp] theorem State.fetched_redraw : (s.fetched).redraw = s.redraw := rfl
@[simp] theorem State.fetched_fault : (s.fetched).fault = s.fault := rfl
@[simp] theorem State.fetched_keys : (s.fetched).keys = s.keys := rfl
@[simp] theorem State.fetched_mem : (s.fetched).mem = s.mem := rfl
@[simp] theorem State.fetched_fb : (s.fetched).fb = s.fb := rfl
@[simp] theorem State.fetched_schedule : (s.fetched).schedule = s.schedule := rfl
@[simp] theorem State.fetched_draws : (s.fetched).draws = s.draws := rfl
end

section
variable (s : State)
@[simp] theorem State.popEvent_v : (s.popEvent).v = s.v := rfl
@[simp] theorem State.popEvent_i : (s.popEvent).i = s.i := rfl
@[simp] theorem State.popEvent_pc : (s.popEvent).pc = s.pc := rfl
@[simp] theorem State.popEvent_sp : (s.popEvent).sp = s.sp := rfl
@[simp] theorem State.popEvent_stack : (s.popEvent).stack = s.stack := rfl
@[simp] theorem State.popEvent_dt : (s.popEvent).dt = s.dt := rfl
@[simp] theorem State.popEvent_st : (s.popEvent).st = s.st := rfl
@[simp] theorem State.popEvent_opcode : (s.popEvent).opcode = s.opcode := rfl
@[simp] theorem State.popEvent_redraw : (s.popEvent).redraw = s.redraw := rfl
@[simp] theorem State.popEvent_fault : (s.popEvent).fault = s.fault := rfl
@[simp] theorem State.popEvent_keys : (s.popEvent).keys = s.keys := rfl
@[simp] theorem State.popEvent_mem : (s.popEvent).mem = s.mem := rfl
@[simp] theorem State.popEvent_fb : (s.popEvent).fb = s.fb := rfl
@[simp] theorem State.popEvent_schedule : (s.popEvent).schedule = s.schedule.after := rfl
@[simp] theorem State.popEvent_draws : (s.popEvent).draws = s.draws := rfl
end

section
variable (s : State)
@[simp] theorem State.timerTick_v : (s.timerTick).v = s.v := rfl
@[simp] theorem State.timerTick_i : (s.timerTick).i = s.i := rfl
@[simp] theorem State.timerTick_pc : (s.timerTick).pc = s.pc := rfl
@[simp] theorem State.timerTick_sp : (s.timerTick).sp = s.sp := rfl
@[simp] theorem State.timerTick_stack : (s.timerTick).stack = s.stack := rfl
@[simp] theorem State.timerTick_dt : (s.timerTick).dt = tickDown s.dt := rfl
@[simp] theorem State.timerTick_st : (s.timerTick).st = tickDown s.st := rfl
@[simp] theorem State.timerTick_opcode : (s.timerTick).opcode = s.opcode := rfl
@[simp] theorem State.timerTick_redraw : (s.timerTick).redraw = s.redraw := rfl
@[simp] theorem State.timerTick_fault : (s.timerTick).fault = s.fault := rfl
@[simp] theorem State.timerTick_keys : (s.timerTick).keys = s.keys := rfl
@[simp] theorem State.timerTick_mem : (s.timerTick).mem = s.mem := rfl
@[simp] theorem State.timerTick_fb : (s.timerTick).fb = s.fb := rfl
@[simp] theorem State.timerTick_schedule : (s.timerTick).schedule = s.schedule := rfl
@[simp] theorem State.timerTick_draws : (s.timerTick).draws = s.draws := rfl
end

section
variable (s : State) (k : Word)
@[simp] theorem State.setKeys_v : (s.setKeys k).v = s.v := rfl
@[simp] theorem State.setKeys_i : (s.setKeys k).i = s.i := rfl
@[simp] theorem State.setKeys_pc : (s.setKeys k).pc = s.pc := rfl
@[simp] theorem State.setKeys_sp : (s.setKeys k).sp = s.sp := rfl
@[simp] theorem State.setKeys_stack : (s.setKeys k).stack = s.stack := rfl
@[simp] theorem State.setKeys_dt : (s.setKeys k).dt = s.dt := rfl
@[simp] theorem State.setKeys_st : (s.setKeys k).st = s.st := rfl
@[simp] theorem State.setKeys_opcode : (s.setKeys k).opcode = s.opcode := rfl
@[simp] theorem State.setKeys_redraw : (s.setKeys k).redraw = s.redraw := rfl
@[simp] theorem State.setKeys_fault : (s.setKeys k).fault = s.fault := rfl
@[simp] theorem State.setKeys_keys : (s.setKeys k).keys = k := rfl
@[simp] theorem State.setKeys_mem : (s.setKeys k).mem = s.mem := rfl
@[simp] theorem State.setKeys_fb : (s.setKeys k).fb = s.fb := rfl
@[simp] theorem State.setKeys_schedule : (s.setKeys k).schedule = s.schedule := rfl
@[simp] theorem State.setKeys_draws : (s.setKeys k).draws = s.draws := rfl
end

section
variable (s : State)
@[simp] theorem State.ackRedraw_v : (s.ackRedraw).v = s.v := rfl
@[simp] theorem State.ackRedraw_i : (s.ackRedraw).i = s.i := rfl
@[simp] theorem State.ackRedraw_pc : (s.ackRedraw).pc = s.pc := rfl
@[simp] theorem State.ackRedraw_sp : (s.ackRedraw).sp = s.sp := rfl
@[simp] theorem State.ackRedraw_stack : (s.ackRedraw).stack = s.stack := rfl
@[simp] theorem State.ackRedraw_dt : (s.ackRedraw).dt = s.dt := rfl
@[simp] theorem State.ackRedraw_st : (s.ackRedraw).st = s.st := rfl
@[simp] theorem State.ackRedraw_opcode : (s.ackRedraw).opcode = s.opcode := rfl
@[simp] theorem State.ackRedraw_redraw : (s.ackRedraw).redraw = false := rfl
@[simp] theorem State.ackRedraw_fault : (s.ackRedraw).fault = s.fault := rfl
@[simp] theorem State.ackRedraw_keys : (s.ackRedraw).keys = s.keys := rfl
@[simp] theorem State.ackRedraw_mem : (s.ackRedraw).mem = s.mem := rfl
@[simp] theorem State.ackRedraw_fb : (s.ackRedraw).fb = s.fb := rfl
@[simp] theorem State.ackRedraw_schedule : (s.ackRedraw).schedule = s.schedule := rfl
@[simp] theorem State.ackRedraw_draws : (s.ackRedraw).draws = s.draws := rfl
end

section
variable (s : State) (c : Bool)
@[simp] theorem State.skipIf_v : (s.skipIf c).v = s.v := by cases c <;> rfl
@[simp] theorem State.skipIf_i : (s.skipIf c).i = s.i := by cases c <;> rfl
@[simp] theorem State.skipIf_pc : (s.skipIf c).pc = if c then s.pc + 2 else s.pc := by
  cases c <;> rfl
@[simp] theorem State.skipIf_sp : (s.skipIf c).sp = s.sp := by cases c <;> rfl
@[simp] theorem State.skipIf_stack : (s.skipIf c).stack = s.stack := by cases c <;> rfl
@[simp] theorem State.skipIf_dt : (s.skipIf c).dt = s.dt := by cases c <;> rfl
@[simp] theorem State.skipIf_st : (s.skipIf c).st = s.st := by cases c <;> rfl
@[simp] theorem State.skipIf_opcode : (s.skipIf c).opcode = s.opcode := by cases c <;> rfl
@[simp] theorem State.skipIf_redraw : (s.skipIf c).redraw = s.redraw := by cases c <;> rfl
@[simp] theorem State.skipIf_fault : (s.skipIf c).fault = s.fault := by cases c <;> rfl
@[simp] theorem State.skipIf_keys : (s.skipIf c).keys = s.keys := by cases c <;> rfl
@[simp] theorem State.skipIf_mem : (s.skipIf c).mem = s.mem := by cases c <;> rfl
@[simp] theorem State.skipIf_fb : (s.skipIf c).fb = s.fb := by cases c <;> rfl
@[simp] theorem State.skipIf_schedule : (s.skipIf c).schedule = s.schedule := by cases c <;> rfl
@[simp] theorem State.skipIf_draws : (s.skipIf c).draws = s.draws := by cases c <;> rfl
end

section
variable (s : State) (c : Bool)
@[simp] theorem State.setFlag_i : (s.setFlag c).i = s.i := rfl
@[simp] theorem State.setFlag_pc : (s.setFlag c).pc = s.pc := rfl
@[simp] theorem State.setFlag_sp : (s.setFlag c).sp = s.sp := rfl
@[simp] theorem State.setFlag_stack : (s.setFlag c).stack = s.stack := rfl
@[simp] theorem State.setFlag_dt : (s.setFlag c).dt = s.dt := rfl
@[simp] theorem State.setFlag_st : (s.setFlag c).st = s.st := rfl
@[simp] theorem State.setFlag_opcode : (s.setFlag c).opcode = s.opcode := rfl
@[simp] theorem State.setFlag_redraw : (s.setFlag c).redraw = s.redraw := rfl
@[simp] theorem State.setFlag_fault : (s.setFlag c).fault = s.fault := rfl
@[simp] theorem State.setFlag_keys : (s.setFlag c).keys = s.keys := rfl
@[simp] theorem State.setFlag_mem : (s.setFlag c).mem = s.mem := rfl
@[simp] theorem State.setFlag_fb : (s.setFlag c).fb = s.fb := rfl
@[simp] theorem State.setFlag_schedule : (s.setFlag c).schedule = s.schedule := rfl
@[simp] theorem State.setFlag_draws : (s.setFlag c).draws = s.draws := rfl
end

section
variable (s : State) (c : Bool) (x : Reg) (b : Byte)
@[simp] theorem State.setFlagThenReg_i : (s.setFlagThenReg c x b).i = s.i := rfl
@[simp] theorem State.setFlagThenReg_pc : (s.setFlagThenReg c x b).pc = s.pc := rfl
@[simp] theorem State.setFlagThenReg_sp : (s.setFlagThenReg c x b).sp = s.sp := rfl
@[simp] theorem State.setFlagThenReg_stack : (s.setFlagThenReg c x b).stack = s.stack := rfl
@[simp] theorem State.setFlagThenReg_dt : (s.setFlagThenReg c x b).dt = s.dt := rfl
@[simp] theorem State.setFlagThenReg_st : (s.setFlagThenReg c x b).st = s.st := rfl
@[simp] theorem State.setFlagThenReg_opcode : (s.setFlagThenReg c x b).opcode = s.opcode := rfl
@[simp] theorem State.setFlagThenReg_redraw : (s.setFlagThenReg c x b).redraw = s.redraw := rfl
@[simp] theorem State.setFlagThenReg_fault : (s.setFlagThenReg c x b).fault = s.fault := rfl
@[simp] theorem State.setFlagThenReg_keys : (s.setFlagThenReg c x b).keys = s.keys := rfl
@[simp] theorem State.setFlagThenReg_mem : (s.setFlagThenReg c x b).mem = s.mem := rfl
@[simp] theorem State.setFlagThenReg_fb : (s.setFlagThenReg c x b).fb = s.fb := rfl
@[simp] theorem State.setFlagThenReg_schedule : (s.setFlagThenReg c x b).schedule = s.schedule := rfl
@[simp] theorem State.setFlagThenReg_draws : (s.setFlagThenReg c x b).draws = s.draws := rfl
end

section
variable (s : State)
@[simp] theorem State.applyReset_v : s.applyReset.v = Vector.replicate 16 0 := rfl
@[simp] theorem State.applyReset_i : s.applyReset.i = 0 := rfl
@[simp] theorem State.applyReset_pc : s.applyReset.pc = 0x200#16 := rfl
@[simp] theorem State.applyReset_sp : s.applyReset.sp = 0 := rfl
@[simp] theorem State.applyReset_stack : s.applyReset.stack = Vector.replicate 16 0 := rfl
@[simp] theorem State.applyReset_dt : s.applyReset.dt = 0 := rfl
@[simp] theorem State.applyReset_st : s.applyReset.st = 0 := rfl
@[simp] theorem State.applyReset_opcode : s.applyReset.opcode = 0 := rfl
@[simp] theorem State.applyReset_redraw : s.applyReset.redraw = false := rfl
@[simp] theorem State.applyReset_fault : s.applyReset.fault = .none := rfl
@[simp] theorem State.applyReset_keys : s.applyReset.keys = 0 := rfl
@[simp] theorem State.applyReset_mem : s.applyReset.mem = Memory.initial s.mem.font := rfl
@[simp] theorem State.applyReset_fb : s.applyReset.fb = Vector.replicate 32 0 := rfl
@[simp] theorem State.applyReset_schedule : s.applyReset.schedule = s.schedule := rfl
@[simp] theorem State.applyReset_draws : s.applyReset.draws = s.draws := rfl
end

/-- A drawn byte is the free value of the next draw. -/
@[simp] theorem State.drawByte_fst (s : State) : s.drawByte.1 = Config.randomByte s.draws := rfl

/-- A draw changes the count of draws only. -/
@[simp] theorem State.drawByte_snd (s : State) : s.drawByte.2 = { s with draws := s.draws + 1 } := rfl

end Sys2Proof.Machine
end

