-- ==== Sys2Proof/Laws/Display.lean ====
section
/-! SUPPORT. Pixels after a toggle and after one sprite bit (45_display.md R191). -/

namespace Sys2Proof.Machine

/-- Toggling a pixel changes that pixel only. -/
theorem pixel_togglePixel (fb : FrameBuffer) (y y' : Fin 32) (x x' : Fin 64) :
    pixel (togglePixel fb y x) y' x' = (pixel fb y' x' ^^ decide (y' = y ∧ x' = x)) := by
  unfold pixel togglePixel
  by_cases hy : y' = y
  · subst hy
    have hx : x'.val = x.val ↔ x' = x := by rw [Fin.ext_iff]
    simp [hx]
  · have : y.val ≠ y'.val := fun h => hy (Fin.ext h.symm)
    simp [this, hy]

@[simp] theorem pixel_clearFb (y : Fin 32) (x : Fin 64) : pixel clearFb y x = false := by
  simp [pixel, clearFb]

/-- Frame buffers with the same pixels are the same. -/
theorem frameBuffer_ext {a b : FrameBuffer} (h : ∀ y x, pixel a y x = pixel b y x) : a = b := by
  apply Vector.ext
  intro y hy
  apply BitVec.eq_of_getLsbD_eq
  intro x hx
  exact h ⟨y, hy⟩ ⟨x, hx⟩

/-- A pixel after one bit of a sprite row: XORed if the bit is set and falls on it. -/
theorem Canvas.pixel_drawBit (c : Canvas) (cx cy : Byte) (r : Nat) (bits : Byte) (k : Nat) (y : Fin 32)
    (x : Fin 64) :
    pixel (c.drawBit cx cy r bits k).fb y x =
      (pixel c.fb y x ^^
        (bits.getLsbD (7 - k) && decide (y = wrapRow cy r ∧ x = wrapCol cx k))) := by
  unfold Canvas.drawBit
  split
  · rw [Canvas.touch, pixel_togglePixel, ‹bits.getLsbD (7 - k) = true›, Bool.true_and]
  · simp_all

/-- The collision note after one bit of a sprite row (R193). -/
theorem Canvas.hit_drawBit (c : Canvas) (cx cy : Byte) (r : Nat) (bits : Byte) (k : Nat) :
    (c.drawBit cx cy r bits k).hit =
      (c.hit || (bits.getLsbD (7 - k) && pixel c.fb (wrapRow cy r) (wrapCol cx k))) := by
  unfold Canvas.drawBit
  split <;> simp_all [Canvas.touch]

/-- The first `m` columns of a sprite row. -/
def drawCols (c : Canvas) (cx cy : Byte) (r : Nat) (bits : Byte) (m : Nat) : Canvas :=
  (List.range m).foldl (fun c k => c.drawBit cx cy r bits k) c

theorem drawCols_succ (c : Canvas) (cx cy r bits m) : drawCols c cx cy r bits (m+1) = (drawCols c cx cy r bits m).drawBit cx cy r bits m := by
  simp [drawCols, List.range_succ]

/-- The eight columns of a row are distinct modulo 64. -/
theorem wrapCol_ne (cx : Byte) (k m : Nat) (hk : k < m) (hm : m < 8) : wrapCol cx k ≠ wrapCol cx m := by
  intro h; have := congrArg Fin.val h; simp [wrapCol] at this; omega
/-- The at most fifteen rows are distinct modulo 32. -/
theorem wrapRow_ne (cy : Byte) (k m : Nat) (hk : k < m) (hm : m < 16) : wrapRow cy k ≠ wrapRow cy m := by
  intro h; have := congrArg Fin.val h; simp [wrapRow] at this; omega

open Classical in
/-- What the first `m` columns of a sprite row do: each pixel under a set bit is XORed, and a collision is
noted if one of them was on. -/
theorem drawCols_spec (c : Canvas) (cx cy : Byte) (r : Nat) (bits : Byte) (m : Nat) (hm : m ≤ 8) :
   (∀ y x, pixel (drawCols c cx cy r bits m).fb y x = (pixel c.fb y x ^^ decide (∃ k, k < m ∧ bits.getLsbD (7-k) = true ∧ y = wrapRow cy r ∧ x = wrapCol cx k))) ∧
   ((drawCols c cx cy r bits m).hit = (c.hit || decide (∃ k, k < m ∧ bits.getLsbD (7-k) = true ∧ pixel c.fb (wrapRow cy r) (wrapCol cx k) = true))) := by
  induction m with
  | zero => simp [drawCols]
  | succ m ih =>
    obtain ⟨ih1, ih2⟩ := ih (by omega)
    rw [drawCols_succ]
    constructor
    · intro y x
      rw [Canvas.pixel_drawBit, ih1]
      by_cases h : bits.getLsbD (7-m) = true ∧ y = wrapRow cy r ∧ x = wrapCol cx m
      · obtain ⟨h1, h2, h3⟩ := h
        have a1 : ¬ ∃ k, k < m ∧ bits.getLsbD (7-k) = true ∧ y = wrapRow cy r ∧ x = wrapCol cx k := by
          rintro ⟨k, hk, _, _, hx⟩; exact wrapCol_ne cx k m hk (by omega) (hx.symm.trans h3)
        have a2 : ∃ k, k < m+1 ∧ bits.getLsbD (7-k) = true ∧ y = wrapRow cy r ∧ x = wrapCol cx k := ⟨m, by omega, h1, h2, h3⟩
        rw [decide_eq_false a1, decide_eq_true a2, decide_eq_true (show y = wrapRow cy r ∧ x = wrapCol cx m from ⟨h2, h3⟩), h1]; simp
      · have a : (∃ k, k < m+1 ∧ bits.getLsbD (7-k) = true ∧ y = wrapRow cy r ∧ x = wrapCol cx k) ↔ (∃ k, k < m ∧ bits.getLsbD (7-k) = true ∧ y = wrapRow cy r ∧ x = wrapCol cx k) := by
          constructor
          · rintro ⟨k, hk, h'⟩
            by_cases hkm : k = m
            · subst hkm; exact absurd h' h
            · exact ⟨k, by omega, h'⟩
          · rintro ⟨k, hk, h'⟩; exact ⟨k, by omega, h'⟩
        have b : (bits.getLsbD (7-m) && decide (y = wrapRow cy r ∧ x = wrapCol cx m)) = false := by
          rw [Bool.eq_false_iff]; intro hh; simp only [Bool.and_eq_true, decide_eq_true_eq] at hh; exact h hh
        rw [b]; simp only [a]; simp
    · rw [Canvas.hit_drawBit, ih2, ih1]
      have a1 : ¬ ∃ k, k < m ∧ bits.getLsbD (7-k) = true ∧ wrapRow cy r = wrapRow cy r ∧ wrapCol cx m = wrapCol cx k := by
          rintro ⟨k, hk, _, _, hx⟩; exact wrapCol_ne cx k m hk (by omega) hx.symm
      rw [decide_eq_false a1, Bool.or_assoc]
      congr 1
      rw [Bool.eq_iff_iff]; simp only [Bool.or_eq_true, decide_eq_true_eq, Bool.and_eq_true, Bool.bne_false]
      constructor
      · rintro (⟨k, hk, h'⟩ | h')
        · exact ⟨k, by omega, h'⟩
        · exact ⟨m, by omega, h'⟩
      · rintro ⟨k, hk, h'⟩
        by_cases hkm : k = m
        · subst hkm; exact .inr h'
        · exact .inl ⟨k, by omega, h'⟩

open Classical in
/-- What drawing the rows of a sprite does (R191): each pixel under a set bit is XORed, and a collision is
noted if one of them was on. -/
theorem Canvas.drawRows_spec (l : List Byte) (c : Canvas) (cx cy : Byte) (r0 : Nat) (hl : r0 + l.length ≤ 16) :
   (∀ y x, pixel (c.drawRows cx cy r0 l).fb y x = (pixel c.fb y x ^^ decide (∃ r k, ∃ h : r < l.length, k < 8 ∧ l[r].getLsbD (7-k) = true ∧ y = wrapRow cy (r0+r) ∧ x = wrapCol cx k))) ∧
   ((c.drawRows cx cy r0 l).hit = (c.hit || decide (∃ r k, ∃ h : r < l.length, k < 8 ∧ l[r].getLsbD (7-k) = true ∧ pixel c.fb (wrapRow cy (r0+r)) (wrapCol cx k) = true))) := by
  induction l generalizing c r0 with
  | nil => simp [Canvas.drawRows]
  | cons b rest ih =>
    simp only [List.length_cons] at hl
    obtain ⟨i1, i2⟩ := ih (c.drawRow cx cy r0 b) (r0+1) (by omega)
    obtain ⟨c1, c2⟩ := drawCols_spec c cx cy r0 b 8 (by omega)
    change (∀ y x, pixel (c.drawRow cx cy r0 b).fb y x = _) at c1
    change (c.drawRow cx cy r0 b).hit = _ at c2
    have nr : ∀ r, r < rest.length → wrapRow cy (r0 + 1 + r) ≠ wrapRow cy r0 := fun r hr h => wrapRow_ne cy r0 (r0+1+r) (by omega) (by omega) h.symm
    constructor
    · intro y x
      simp only [Canvas.drawRows]
      rw [i1, c1, Bool.xor_assoc]
      congr 1
      by_cases hy : y = wrapRow cy r0
      · have : ¬ (∃ r k, ∃ h : r < rest.length, k < 8 ∧ rest[r].getLsbD (7-k) = true ∧ y = wrapRow cy (r0+1+r) ∧ x = wrapCol cx k) := by
          rintro ⟨r, k, h, _, _, h2, _⟩; exact nr r h (h2.symm.trans hy)
        rw [decide_eq_false this, Bool.xor_false, decide_eq_decide]
        constructor
        · rintro ⟨k, a, b, c, d⟩; exact ⟨0, k, by simp, a, b, c, d⟩
        · rintro ⟨r, k, h, a, b, c, d⟩
          cases r with
          | zero => exact ⟨k, a, b, c, d⟩
          | succ r => exact absurd (show wrapRow cy (r0+1+r) = wrapRow cy r0 by rw [← hy, c]; congr 1; omega) (nr r (by simpa using h))
      · have : ¬ (∃ k, k < 8 ∧ b.getLsbD (7-k) = true ∧ y = wrapRow cy r0 ∧ x = wrapCol cx k) := by
          rintro ⟨k, a, b, c, d⟩; exact hy c
        rw [decide_eq_false this, Bool.false_xor, decide_eq_decide]
        constructor
        · rintro ⟨r, k, h, a, b, c, d⟩; exact ⟨r+1, k, by simpa using h, a, b, by rw [c]; congr 1; omega, d⟩
        · rintro ⟨r, k, h, a, b, c, d⟩
          cases r with
          | zero => exact absurd c hy
          | succ r => exact ⟨r, k, by simpa using h, a, b, by rw [c]; congr 1; omega, d⟩
    · simp only [Canvas.drawRows]
      rw [i2, c2, Bool.or_assoc]
      congr 1
      rw [Bool.eq_iff_iff]; simp only [Bool.or_eq_true, decide_eq_true_eq]
      have hp : ∀ r k, r < rest.length → pixel (c.drawRow cx cy r0 b).fb (wrapRow cy (r0+1+r)) (wrapCol cx k) = pixel c.fb (wrapRow cy (r0+1+r)) (wrapCol cx k) := by
        intro r k hr
        rw [c1, decide_eq_false, Bool.xor_false]
        rintro ⟨_, _, _, h, _⟩; exact nr r hr h
      constructor
      · rintro (⟨k, a, b, d⟩ | ⟨r, k, h, a, b, d⟩)
        · exact ⟨0, k, by simp, a, b, d⟩
        · rw [hp r k h] at d; exact ⟨r+1, k, by simpa using h, a, b, by rw [← d]; congr 2; omega⟩
      · rintro ⟨r, k, h, a, b, d⟩
        cases r with
        | zero => exact .inl ⟨k, a, b, d⟩
        | succ r => exact .inr ⟨r, k, by simpa using h, a, b, by rw [hp r k (by simpa using h), ← d]; congr 2; omega⟩

end Sys2Proof.Machine
end

