-- ==== Sys2Proof/Laws/Memory.lean ====
section
/-! SUPPORT. The laws of memory (20_memory.md R69, R71): reading after writing, and the canonical form,
which every memory operation keeps. -/

namespace Sys2Proof.Machine

/-! ## Lists of cells -/

/-- The canonical form depends on FONT only through the memory's background. -/
theorem cellsOk_font {m m' : Memory} (h : m'.font = m.font) (lo : Nat) (l : List Host.Cell) :
    cellsOk m' lo l = cellsOk m lo l := by
  induction l generalizing lo with
  | nil => rfl
  | cons c rest ih => simp [cellsOk, ih, Memory.background, h]

theorem cellsOk_mono {m : Memory} {lo lo' : Nat} {l : List Host.Cell} (h : lo' ≤ lo)
    (hl : cellsOk m lo l = true) : cellsOk m lo' l = true := by
  cases l with
  | nil => rfl
  | cons c rest =>
    simp only [cellsOk, Bool.and_eq_true, decide_eq_true_eq] at hl ⊢
    exact ⟨⟨⟨by omega, hl.1.1.2⟩, hl.1.2⟩, hl.2⟩

/-- An address below a canonical list's bound is not listed. -/
theorem lookupCell_below {m : Memory} {lo a : Nat} {l : List Host.Cell} (hl : cellsOk m lo l = true)
    (h : a < lo) : lookupCell l a = none := by
  induction l generalizing lo with
  | nil => rfl
  | cons c rest ih =>
    simp only [cellsOk, Bool.and_eq_true, decide_eq_true_eq] at hl
    have : a ≠ c.1 := by omega
    simp [lookupCell, this, ih hl.2 (by omega)]

/-- Putting a byte keeps the canonical form. -/
theorem cellsOk_putCell {m : Memory} {lo a : Nat} {l : List Host.Cell} (b : Byte)
    (hl : cellsOk m lo l = true) (hlo : lo ≤ a) (ha : a < Config.memSize) :
    cellsOk m lo (putCell (m.background a) l a b) = true := by
  induction l generalizing lo with
  | nil =>
    unfold putCell
    split <;> simp_all [cellsOk]
  | cons c rest ih =>
    obtain ⟨k, d⟩ := c
    simp only [cellsOk, Bool.and_eq_true, decide_eq_true_eq] at hl
    obtain ⟨⟨⟨h1, h2⟩, h3⟩, h4⟩ := hl
    unfold putCell
    split
    · split
      · simp [cellsOk, h1, h2, h3, h4]
      · have : a + 1 ≤ k := by omega
        simp_all [cellsOk]
    · split
      · subst k
        split
        · exact cellsOk_mono (by omega) h4
        · simp_all [cellsOk]
      · have := ih h4 (by omega)
        simp_all [cellsOk]

/-- Looking up after putting. -/
theorem lookupCell_putCell {m : Memory} {lo a : Nat} {l : List Host.Cell} (b : Byte)
    (hl : cellsOk m lo l = true) (c : Nat) :
    lookupCell (putCell (m.background a) l a b) c =
      if c = a then (if b = m.background a then none else some b) else lookupCell l c := by
  induction l generalizing lo with
  | nil =>
    unfold putCell
    split <;> simp_all [lookupCell]
  | cons cell rest ih =>
    obtain ⟨k, d⟩ := cell
    simp only [cellsOk, Bool.and_eq_true, decide_eq_true_eq] at hl
    obtain ⟨⟨⟨h1, h2⟩, h3⟩, h4⟩ := hl
    have ih := ih h4
    have below : ∀ e, e < k + 1 → lookupCell rest e = none := fun e he => lookupCell_below h4 he
    unfold putCell
    split
    · have hka : a ≠ k := by omega
      have hra := below a (by omega)
      split <;> by_cases hc : c = a <;> simp_all [lookupCell]
    · split
      · subst k
        have hra := below a (by omega)
        split <;> by_cases hc : c = a <;> simp_all [lookupCell]
      · have hka : a ≠ k := by omega
        by_cases hc : c = a
        · subst hc; simp_all [lookupCell]
        · simp_all [lookupCell]

/-! ## Memory -/

@[simp] theorem Memory.write_font (m : Memory) (a : Nat) (b : Byte) : (m.write a b).font = m.font := by
  unfold Memory.write
  split <;> rfl

@[simp] theorem Memory.write_background (m : Memory) (a : Nat) (b : Byte) (c : Nat) :
    (m.write a b).background c = m.background c := by
  simp [Memory.background]

theorem Memory.wf_initial (font : Vector Byte 80) : (Memory.initial font).wf = true := rfl

/-- A write keeps the canonical form. -/
theorem Memory.wf_write {m : Memory} (h : m.wf = true) (a : Nat) (b : Byte) :
    (m.write a b).wf = true := by
  unfold Memory.wf
  rw [cellsOk_font (m := m) (by simp)]
  unfold Memory.write
  split
  · exact cellsOk_putCell b h (Nat.zero_le _) ‹_›
  · exact h

/-- A read after a write: the byte written at its address, the old byte elsewhere. -/
theorem Memory.read_write {m : Memory} (h : m.wf = true) {a : Nat} (ha : a < Config.memSize) (b : Byte)
    (c : Nat) : (m.write a b).read c = if c = a then b else m.read c := by
  have hl := lookupCell_putCell (a := a) b h c
  have hcells : (m.write a b).cells = putCell (m.background a) m.cells a b := by simp [Memory.write, ha]
  unfold Memory.read
  rw [hcells, hl, Memory.write_background]
  by_cases hc : c = a
  · subst hc
    by_cases hb : b = m.background c <;> simp [hb]
  · simp [hc]

@[simp] theorem Memory.writeBytes_font (m : Memory) (a : Nat) (l : List Byte) :
    (m.writeBytes a l).font = m.font := by
  induction l generalizing m a with
  | nil => rfl
  | cons b rest ih => simp [Memory.writeBytes, ih]

/-- A run of writes keeps the canonical form. -/
theorem Memory.wf_writeBytes {m : Memory} (h : m.wf = true) (a : Nat) (l : List Byte) :
    (m.writeBytes a l).wf = true := by
  induction l generalizing m a with
  | nil => exact h
  | cons b rest ih => exact ih (Memory.wf_write h a b) _

/-- A read after a run of writes inside memory: the byte of the run at its address, the old byte
elsewhere. -/
theorem Memory.read_writeBytes {m : Memory} (h : m.wf = true) {a : Nat} {l : List Byte}
    (hl : a + l.length ≤ Config.memSize) (c : Nat) :
    (m.writeBytes a l).read c =
      if hc : a ≤ c ∧ c < a + l.length then l[c - a]'(by omega) else m.read c := by
  induction l generalizing m a with
  | nil => simp [Memory.writeBytes]
  | cons b rest ih =>
    simp only [List.length_cons] at hl
    have hw := Memory.read_write h (a := a) (by omega) b c
    unfold Memory.writeBytes
    rw [ih (Memory.wf_write h a b) (by omega), hw]
    by_cases h1 : c = a
    · subst h1
      simp
    · by_cases h2 : a + 1 ≤ c ∧ c < a + 1 + rest.length
      · have h3 : a ≤ c ∧ c < a + (b :: rest).length := by simp only [List.length_cons]; omega
        have h4 : c - a = (c - (a + 1)) + 1 := by omega
        simp only [h2, h3, and_self, dite_true]
        simp only [h4, List.getElem_cons_succ]
      · have h3 : ¬(a ≤ c ∧ c < a + (b :: rest).length) := by simp only [List.length_cons]; omega
        simp only [dif_neg h2, dif_neg h3, if_neg h1]

@[simp] theorem Memory.length_readBytes (m : Memory) (a n : Nat) : (m.readBytes a n).length = n := by
  induction n generalizing a with
  | zero => rfl
  | succ n ih => simp [Memory.readBytes, ih]

/-- The k-th byte of a run of reads. -/
theorem Memory.getElem_readBytes (m : Memory) (a n k : Nat) (hk : k < (m.readBytes a n).length) :
    (m.readBytes a n)[k] = m.read (a + k) := by
  induction n generalizing a k with
  | zero => simp [Memory.readBytes] at hk
  | succ n ih =>
    cases k with
    | zero => rfl
    | succ k =>
      simp only [Memory.readBytes, List.getElem_cons_succ, ih]
      congr 1
      omega

end Sys2Proof.Machine
end

