-- ==== Sys2Proof/Laws/Registers.lean ====
section
/-! SUPPORT. Reading a register after the register writes (10_state.md R20, R22; 40_fetch_dispatch.md
R125), and the stack (R27). -/

namespace Sys2Proof.Machine

@[simp] theorem State.reg_setReg_self (s : State) (x : Reg) (b : Byte) : (s.setReg x b).reg x = b := by
  simp [State.reg]

theorem State.reg_setReg (s : State) (x z : Reg) (b : Byte) :
    (s.setReg x b).reg z = if z = x then b else s.reg z := by
  have h : x.toNat = z.toNat ↔ z = x := by rw [BitVec.toNat_inj]; exact eq_comm
  simp [State.reg, Vector.getElem_set, h]

theorem State.reg_setReg_ne (s : State) {x z : Reg} (b : Byte) (h : z ≠ x) :
    (s.setReg x b).reg z = s.reg z := by
  simp [State.reg_setReg, h]

theorem State.reg_setFlag (s : State) (c : Bool) (z : Reg) :
    (s.setFlag c).reg z = if z = vf then flagByte c else s.reg z := by
  simp [State.setFlag, State.reg_setReg]

/-- The result stands when x = 15; else VF holds the flag (R125). -/
theorem State.reg_setFlagThenReg (s : State) (c : Bool) (x z : Reg) (b : Byte) :
    (s.setFlagThenReg c x b).reg z =
      if z = x then b else if z = vf then flagByte c else s.reg z := by
  simp [State.setFlagThenReg, State.reg_setReg, State.reg_setFlag]

/-- States that agree on `v` read the same registers. -/
theorem State.reg_congr {s t : State} (h : s.v = t.v) (x : Reg) : s.reg x = t.reg x := by
  simp [State.reg, h]

/-- Registers that read the same are the same. -/
theorem State.v_ext {s t : State} (h : ∀ x, s.reg x = t.reg x) : s.v = t.v := by
  apply Vector.ext
  intro k hk
  have := h (BitVec.ofNat 4 k)
  simpa [State.reg, Nat.mod_eq_of_lt hk] using this

/-- A register write changes nothing but the registers. -/
theorem State.setReg_frame (s : State) (x : Reg) (b : Byte) :
    s.setReg x b = { s with v := (s.setReg x b).v } := rfl

/-- What a push can do (R27). -/
theorem State.push_eq (s : State) (a : Word) :
    (s.sp.val = 16 ∧ s.push a = none) ∨
    (∃ t, s.sp.val < 16 ∧ s.push a = some t ∧ t.sp.val = s.sp.val + 1 ∧
      (∀ k (hk : k < 16), t.stack[k] = if k = s.sp.val then a else s.stack[k]) ∧
      t = { s with sp := t.sp, stack := t.stack }) := by
  by_cases h : s.sp.val < 16
  · refine .inr ⟨{ s with stack := s.stack.set s.sp.val a h, sp := ⟨s.sp.val + 1, by omega⟩ }, h,
      by simp only [State.push, h, dite_true], rfl, ?_, rfl⟩
    intro k hk
    by_cases hks : k = s.sp.val
    · subst hks; simp
    · simp [hks, Ne.symm hks]
  · exact .inl ⟨by omega, by simp [State.push, h]⟩

/-- What a pop can do (R27): the slot keeps its value (R26). -/
theorem State.pop_eq (s : State) :
    (s.sp.val = 0 ∧ s.pop = none) ∨
    (∃ t, ∃ h : 0 < s.sp.val, s.pop = some (s.stack[s.sp.val - 1]'(by omega), t) ∧
      t.sp.val = s.sp.val - 1 ∧ t = { s with sp := t.sp }) := by
  by_cases h : 0 < s.sp.val
  · exact .inr ⟨{ s with sp := ⟨s.sp.val - 1, by omega⟩ }, h, by simp only [State.pop, h, dite_true], rfl, rfl⟩
  · exact .inl ⟨by omega, by simp [State.pop, h]⟩

end Sys2Proof.Machine
end

