-- ==== Sys2Proof/Laws/Operands.lean ====
section
/-! SUPPORT. The operand forms, fetch and the schedule. -/

namespace Sys2Proof.Machine

theorem State.spanFits_iff (s : State) (last : Nat) : s.spanFits last = true ↔ s.i.toNat + last ≤ 4095 := by
  simp [State.spanFits]

theorem zextAddr_toNat (nnn : Addr12) : (zextAddr nnn).toNat = nnn.toNat := by
  have := nnn.isLt
  simp [zextAddr]
  omega

theorem zextByte_toNat (b : Byte) : (zextByte b).toNat = b.toNat := by
  have := b.isLt
  simp [zextByte]
  omega

@[simp] theorem State.length_regsUpTo (s : State) (x : Reg) : (s.regsUpTo x).length = x.toNat + 1 := by
  have := x.isLt
  simp [State.regsUpTo]
  omega

/-- The k-th byte Fx55 stores is `V[k]`. -/
theorem State.getElem_regsUpTo (s : State) (x : Reg) (k : Nat) (hk : k < (s.regsUpTo x).length) :
    (s.regsUpTo x)[k] = s.reg (BitVec.ofNat 4 k) := by
  have h := x.isLt
  have hk' := hk
  rw [State.length_regsUpTo] at hk'
  have h16 : k % 16 = k := Nat.mod_eq_of_lt (by omega)
  simp [State.regsUpTo, State.reg, h16]

/-- A run of register writes changes nothing but the registers. -/
theorem State.setRegsFrom_frame (s : State) (k : Nat) (l : List Byte) :
    s.setRegsFrom k l = { s with v := (s.setRegsFrom k l).v } := by
  induction l generalizing s k with
  | nil => rfl
  | cons b rest ih =>
    unfold State.setRegsFrom
    rw [ih]
    rfl

/-- Registers after a run of register writes from `k` on. -/
theorem State.reg_setRegsFrom (s : State) (k : Nat) (l : List Byte) (hl : k + l.length ≤ 16) (z : Reg) :
    (s.setRegsFrom k l).reg z =
      if hz : k ≤ z.toNat ∧ z.toNat < k + l.length then l[z.toNat - k]'(by omega) else s.reg z := by
  induction l generalizing s k with
  | nil => simp [State.setRegsFrom]
  | cons b rest ih =>
    simp only [List.length_cons] at hl
    unfold State.setRegsFrom
    rw [ih _ _ (by omega), State.reg_setReg]
    have hk16 : k % 16 = k := Nat.mod_eq_of_lt (by omega)
    have hzk : z = BitVec.ofNat 4 k ↔ z.toNat = k := by
      rw [← BitVec.toNat_inj]; simp [hk16]
    by_cases h1 : z.toNat = k
    · have h2 : ¬(k + 1 ≤ z.toNat ∧ z.toNat < k + 1 + rest.length) := by omega
      have h3 : k ≤ z.toNat ∧ z.toNat < k + (b :: rest).length := by simp only [List.length_cons]; omega
      rw [dif_neg h2, dif_pos h3, if_pos (hzk.2 h1)]
      simp [h1]
    · rw [if_neg (fun h => h1 (hzk.1 h))]
      by_cases h2 : k + 1 ≤ z.toNat ∧ z.toNat < k + 1 + rest.length
      · have h3 : k ≤ z.toNat ∧ z.toNat < k + (b :: rest).length := by simp only [List.length_cons]; omega
        have h4 : z.toNat - k = (z.toNat - (k + 1)) + 1 := by omega
        rw [dif_pos h2, dif_pos h3]
        simp only [h4, List.getElem_cons_succ]
      · have h3 : ¬(k ≤ z.toNat ∧ z.toNat < k + (b :: rest).length) := by simp only [List.length_cons]; omega
        rw [dif_neg h2, dif_neg h3]

/-- What `keyPressed` answers (R200, R201). -/
theorem State.keyPressed_eq (s : State) (k : Byte) :
    (15 < k.toNat ∧ s.keyPressed k = none) ∨
    (k.toNat ≤ 15 ∧ s.keyPressed k = some (s.keys.getLsbD k.toNat)) := by
  unfold State.keyPressed
  split
  · exact .inr ⟨‹_›, rfl⟩
  · exact .inl ⟨by omega, rfl⟩

/-- What `lowestKey` answers (R202). -/
theorem lowestKey_eq (keys : Word) :
    (keys = 0 ∧ lowestKey keys = none) ∨
    (∃ k, k < 16 ∧ lowestKey keys = some k ∧ keys.getLsbD k = true ∧
      ∀ j, j < k → keys.getLsbD j = false) := by
  unfold lowestKey
  rcases h : (List.range 16).find? (fun k => keys.getLsbD k) with _ | k
  · refine .inl ⟨?_, rfl⟩
    rw [List.find?_eq_none] at h
    apply BitVec.eq_of_getLsbD_eq
    intro i hi
    simpa using h i (by simpa using hi)
  · have hk := List.find?_some h
    have hmem := List.mem_of_find?_eq_some h
    refine .inr ⟨k, by simpa using hmem, rfl, hk, ?_⟩
    intro j hj
    rw [List.find?_range_eq_some] at h
    simpa using h.2.2 j hj

/-- The bytes fetch reads (R121). -/
theorem State.fetchBytes_eq (s : State) :
    s.fetchBytes = [s.mem.read s.pc.toNat, s.mem.read (s.pc.toNat + 1)] := rfl

/-- Decoding the two bytes at PC is decoding the word they make (R121, R123). -/
theorem State.decode_fetchBytes (s : State) :
    decode s.fetchBytes =
      match decodeWord s.fetchWord with
      | some i => .ok (i, [])
      | none => .error (.unimplemented s.fetchWord) := rfl

/-- A step with an event to come is that event, in the state with it taken off the schedule. -/
theorem step_of_next {s : State} {e : Event} {c : Schedule} (h : s.schedule.next = some (e, c)) :
    step s = ({ s with schedule := c } : State).event e := by
  simp only [step, State.issue, h]

/-- A step with no event to come changes nothing. -/
theorem step_of_stop {s : State} (h : s.schedule.next = none) : step s = .next s := by
  simp only [step, State.issue, h]

/-- A step whose next event is a `Cycle` is a cycle with that event taken off. -/
theorem step_of_cycleIsNext {s : State} (h : s.cycleIsNext = true) : step s = s.popEvent.cycle := by
  unfold State.cycleIsNext at h
  rcases hn : s.schedule.next with _ | ⟨e, c⟩ <;> rw [hn] at h
  · cases h
  · have he : e = .cycle := by simpa using h
    subst he
    rw [step_of_next hn, State.popEvent, Schedule.after, hn]
    rfl

/-- A listed event is the next one. -/
@[simp] theorem Schedule.next_cons (e : Event) (rest : List Event) (l : Later) :
    (Schedule.mk (e :: rest) l).next = some (e, ⟨rest, l⟩) := rfl

/-- With no event to come, none is next. -/
@[simp] theorem Schedule.next_stop : (Schedule.mk [] .stop).next = none := rfl

/-- Recurring events begin again once they are used up. -/
@[simp] theorem Schedule.next_again (e : Event) (rest : List Event) :
    (Schedule.mk [] (.again e rest)).next = some (e, ⟨rest, .again e rest⟩) := rfl

/-- The free sequence goes on with its next event. -/
@[simp] theorem Schedule.next_free (k : Nat) :
    (Schedule.mk [] (.free k)).next = some (Config.freeEvent k, ⟨[], .free (k + 1)⟩) := rfl

/-- What a cycle can do (R120): nothing while halted, a fetch fault, a decode fault, or the handler. -/
theorem State.cycle_eq (s : State) :
    (s.fault ≠ .none ∧ s.cycle = .next s) ∨
    (s.fault = .none ∧ s.fetchCause ≠ .none ∧ s.cycle = .next (s.takeFault s.pc s.fetchCause)) ∨
    (s.fault = .none ∧ s.fetchCause = .none ∧ decodeWord s.fetchWord = none ∧
      s.cycle = .next (s.fetched.raise .unimplementedOpcode)) ∨
    (∃ i, s.fault = .none ∧ s.fetchCause = .none ∧ decodeWord s.fetchWord = some i ∧
      s.cycle = exec i s.fetched) := by
  by_cases h1 : s.fault = .none
  · by_cases h2 : s.fetchCause = .none
    · rcases h3 : decodeWord s.fetchWord with _ | i
      · refine .inr (.inr (.inl ⟨h1, h2, rfl, ?_⟩))
        simp [State.cycle, h1, h2, State.dispatch, State.decode_fetchBytes, h3]
      · refine .inr (.inr (.inr ⟨i, h1, h2, rfl, ?_⟩))
        simp [State.cycle, h1, h2, State.dispatch, State.decode_fetchBytes, h3]
    · exact .inr (.inl ⟨h1, h2, by simp [State.cycle, h1, h2]⟩)
  · exact .inl ⟨h1, by simp [State.cycle, h1]⟩

end Sys2Proof.Machine
end

