-- ==== Sys2Proof/Laws/Exec.lean ====
section
/-! SUPPORT. The draw's spec lemma (45_display.md R191), the fault entry in the words of R220, and the one
frame lemma over all meanings. -/

namespace Sys2Proof.Machine

/-- Where PC holds `p + 2`, a handler's fault puts it back to `p` and sets FAULT (R220). -/
theorem State.raise_of_pc (s : State) (p : Word) (c : Cause) (h : s.pc = p + 2) :
    s.raise c = { s with pc := p, fault := c } := by
  simp [State.raise, State.takeFault, h]

/-- Fetch passes its checks exactly at the even addresses 0 to 4094 (R121). -/
theorem State.fetchCause_eq_none (s : State) :
    s.fetchCause = .none ↔ s.pc.toNat + 1 ≤ 4095 ∧ s.pc.toNat % 2 = 0 := by
  unfold State.fetchCause
  split
  · simp; omega
  · split <;> simp <;> omega

open Classical in
/-- What a draw does (R191 to R193): each pixel the sprite covers is XORed, and VF says whether one of
them was on. -/
theorem State.draw_spec (s : State) (x y : Reg) (n : Nibble) :
   (∀ py px, pixel (s.draw x y n).fb py px = (pixel s.fb py px ^^ decide (spriteCovers s x y n py px))) ∧
   (s.draw x y n).reg vf = flagByte (decide (∃ py px, spriteCovers s x y n py px ∧ pixel s.fb py px = true)) := by
  have hn := n.isLt
  have := Canvas.drawRows_spec (s.mem.readBytes s.dataAddr n.toNat) { fb := s.fb, hit := false } (s.reg x) (s.reg y) 0 (by simp; omega)
  obtain ⟨h1, h2⟩ := this
  constructor
  · intro py px
    show pixel (Canvas.drawRows _ _ _ _ _).fb py px = _
    rw [h1]
    congr 1
    rw [decide_eq_decide]
    unfold spriteCovers
    constructor
    · rintro ⟨r, k, h, a, b, c, d⟩
      refine ⟨r, k, by simpa using h, a, ?_, ?_, ?_⟩
      · rw [Memory.getElem_readBytes] at b; exact b
      · rw [d]; rfl
      · rw [c]; simp [wrapRow]
    · rintro ⟨r, k, h, a, b, c, d⟩
      refine ⟨r, k, by simpa using h, a, ?_, ?_, ?_⟩
      · rw [Memory.getElem_readBytes]; exact b
      · apply Fin.ext; rw [d]; simp [wrapRow]
      · apply Fin.ext; rw [c]; rfl
  · rw [State.draw, State.reg_setFlag, if_pos rfl, State.drawCanvas, h2]
    simp only [Bool.false_or]
    refine congrArg flagByte (decide_eq_decide.2 ?_)
    unfold spriteCovers
    constructor
    · rintro ⟨r, k, h, a, b, c⟩
      refine ⟨wrapRow (s.reg y) r, wrapCol (s.reg x) k, ⟨r, k, by simpa using h, a, ?_, rfl, rfl⟩, ?_⟩
      · rw [Memory.getElem_readBytes] at b; exact b
      · rw [← c, Nat.zero_add]
    · rintro ⟨py, px, ⟨r, k, h, a, b, c, d⟩, e⟩
      refine ⟨r, k, by simpa using h, a, ?_, ?_⟩
      · rw [Memory.getElem_readBytes]; exact b
      · rw [← e]; congr 1 <;> apply Fin.ext <;> simp [wrapRow, wrapCol, c, d]

/-- What every handler leaves alone, and which instructions can change which element (10_state.md R35):
the one case analysis over all meanings. -/
theorem exec_frame (i : Instr) (s t : State) (h : exec i s = .next t) :
  t.keys = s.keys ∧ t.schedule = s.schedule ∧ t.opcode = s.opcode ∧
  ((∃ x y n, i = .drw x y n) ∨ i = .cls ∨ (t.redraw = s.redraw ∧ t.fb = s.fb)) ∧ (s.redraw = true → t.redraw = true) ∧
  ((∃ x, i = .ldDtVx x) ∨ t.dt = s.dt) ∧ ((∃ x, i = .ldStVx x) ∨ t.st = s.st) ∧
  ((∃ x, i = .ldBVx x) ∨ (∃ x, i = .ldMemVx x) ∨ t.mem = s.mem) ∧
  (i = .ret ∨ (∃ n, i = .call n) ∨ (t.sp = s.sp ∧ t.stack = s.stack)) ∧
  ((∃ x kk, i = .rnd x kk ∧ t.draws = s.draws + 1) ∨ t.draws = s.draws) ∧
  (writesI i ∨ t.i = s.i) ∧ (writesV i = true ∨ t.v = s.v) := by
  cases i
  case ret => 
    rcases State.pop_eq s with h' | ⟨t', _, h1, h2, h3⟩
    · simp only [exec, execRet, h'.2] at h; injection h with h; subst h; simp
    · simp only [exec, execRet, h1] at h; injection h with h; subst h; rw [h3]; simp
  case call => 
    rcases State.push_eq s s.pc with h' | ⟨t', _, h1, h2, _, h3⟩
    · simp only [exec, execCall, h'.2] at h; injection h with h; subst h; simp
    · simp only [exec, execCall, h1] at h; injection h with h; subst h; rw [h3]; simp
  case ldVxMem => 
    simp only [exec, execLdVxMem] at h; split at h <;> injection h with h <;> subst h
    · rw [State.setRegsFrom_frame]; simp [writesV]
    · simp
  all_goals (
   simp only [exec, execCls, execJp, execSeVxKk, execSneVxKk, execSeVxVy, execLdVxKk, execAddVxKk, execLdVxVy, execOr, execAnd, execXor, execAddVxVy, execSub, execShr, execSubn, execShl, execSneVxVy, execLdINnn, execJpV0, execRnd, execDrw, execSkp, execSknp, execLdVxDt, execLdVxK, execLdDtVx, execLdStVx, execAddIVx, execLdFVx, execLdBVx, execLdMemVx] at h
   (repeat' split at h) <;> injection h with h <;> subst h <;> simp [writesV, writesI, State.draw])

end Sys2Proof.Machine
end

