-- ==== Sys2Proof/Laws/PerInstr.lean ====
section
/-! SUPPORT. Laws stated for each instruction: its encoding lies on its row of the opcode map
(30_encoding.md R99), and its operands fit their fields (R91). -/

namespace Sys2Proof.Laws

/-! ## Masked formats -/

theorem formatNnn_mask (f : BitVec 4) (nnn : Addr12) :
    formatNnn f nnn &&& 0xF000#16 = f.setWidth 16 <<< 12 := by
  unfold formatNnn
  ext i hi
  interval_cases i <;> simp [BitVec.getElem_setWidth]

theorem formatXkk_mask (f : BitVec 4) (x : Reg) (kk : Byte) :
    formatXkk f x kk &&& 0xF000#16 = f.setWidth 16 <<< 12 := by
  unfold formatXkk
  ext i hi
  interval_cases i <;> simp [BitVec.getElem_setWidth]

theorem formatXkk_maskLow (f : BitVec 4) (x : Reg) (kk : Byte) :
    formatXkk f x kk &&& 0xF0FF#16 = formatXkk f 0 kk := by
  unfold formatXkk
  ext i hi
  interval_cases i <;> simp [BitVec.getElem_setWidth]

theorem formatXyn_mask (f : BitVec 4) (x y : Reg) (n : Nibble) :
    formatXyn f x y n &&& 0xF000#16 = f.setWidth 16 <<< 12 := by
  unfold formatXyn
  ext i hi
  interval_cases i <;> simp [BitVec.getElem_setWidth]

theorem formatXyn_maskLow (f : BitVec 4) (x y : Reg) (n : Nibble) :
    formatXyn f x y n &&& 0xF00F#16 = formatXyn f 0 0 n := by
  unfold formatXyn
  ext i hi
  interval_cases i <;> simp [BitVec.getElem_setWidth]

end Sys2Proof.Laws

/-! ## The encoding lies on the row -/

namespace Sys2Proof.Laws.RowMatches

/-- The word of the instruction has its row's literal bits (R99). -/
def Statement (i : Instr) : Prop := encode i &&& i.row.mask = i.row.pattern

theorem cls : Statement (.cls) := by
  unfold Statement
  decide

theorem ret : Statement (.ret) := by
  unfold Statement
  decide

theorem jp (nnn : Addr12) : Statement (.jp nnn) :=
  (formatNnn_mask _ _).trans rfl

theorem call (nnn : Addr12) : Statement (.call nnn) :=
  (formatNnn_mask _ _).trans rfl

theorem seVxKk (x : Reg) (kk : Byte) : Statement (.seVxKk x kk) :=
  (formatXkk_mask _ _ _).trans rfl

theorem sneVxKk (x : Reg) (kk : Byte) : Statement (.sneVxKk x kk) :=
  (formatXkk_mask _ _ _).trans rfl

theorem seVxVy (x y : Reg) : Statement (.seVxVy x y) :=
  (formatXyn_maskLow _ _ _ _).trans rfl

theorem ldVxKk (x : Reg) (kk : Byte) : Statement (.ldVxKk x kk) :=
  (formatXkk_mask _ _ _).trans rfl

theorem addVxKk (x : Reg) (kk : Byte) : Statement (.addVxKk x kk) :=
  (formatXkk_mask _ _ _).trans rfl

theorem ldVxVy (x y : Reg) : Statement (.ldVxVy x y) :=
  (formatXyn_maskLow _ _ _ _).trans rfl

theorem orVxVy (x y : Reg) : Statement (.orVxVy x y) :=
  (formatXyn_maskLow _ _ _ _).trans rfl

theorem andVxVy (x y : Reg) : Statement (.andVxVy x y) :=
  (formatXyn_maskLow _ _ _ _).trans rfl

theorem xorVxVy (x y : Reg) : Statement (.xorVxVy x y) :=
  (formatXyn_maskLow _ _ _ _).trans rfl

theorem addVxVy (x y : Reg) : Statement (.addVxVy x y) :=
  (formatXyn_maskLow _ _ _ _).trans rfl

theorem sub (x y : Reg) : Statement (.sub x y) :=
  (formatXyn_maskLow _ _ _ _).trans rfl

theorem shr (x y : Reg) : Statement (.shr x y) :=
  (formatXyn_maskLow _ _ _ _).trans rfl

theorem subn (x y : Reg) : Statement (.subn x y) :=
  (formatXyn_maskLow _ _ _ _).trans rfl

theorem shl (x y : Reg) : Statement (.shl x y) :=
  (formatXyn_maskLow _ _ _ _).trans rfl

theorem sneVxVy (x y : Reg) : Statement (.sneVxVy x y) :=
  (formatXyn_maskLow _ _ _ _).trans rfl

theorem ldINnn (nnn : Addr12) : Statement (.ldINnn nnn) :=
  (formatNnn_mask _ _).trans rfl

theorem jpV0 (nnn : Addr12) : Statement (.jpV0 nnn) :=
  (formatNnn_mask _ _).trans rfl

theorem rnd (x : Reg) (kk : Byte) : Statement (.rnd x kk) :=
  (formatXkk_mask _ _ _).trans rfl

theorem drw (x y : Reg) (n : Nibble) : Statement (.drw x y n) :=
  (formatXyn_mask _ _ _ _).trans rfl

theorem skp (x : Reg) : Statement (.skp x) :=
  (formatXkk_maskLow _ _ _).trans rfl

theorem sknp (x : Reg) : Statement (.sknp x) :=
  (formatXkk_maskLow _ _ _).trans rfl

theorem ldVxDt (x : Reg) : Statement (.ldVxDt x) :=
  (formatXkk_maskLow _ _ _).trans rfl

theorem ldVxK (x : Reg) : Statement (.ldVxK x) :=
  (formatXkk_maskLow _ _ _).trans rfl

theorem ldDtVx (x : Reg) : Statement (.ldDtVx x) :=
  (formatXkk_maskLow _ _ _).trans rfl

theorem ldStVx (x : Reg) : Statement (.ldStVx x) :=
  (formatXkk_maskLow _ _ _).trans rfl

theorem addIVx (x : Reg) : Statement (.addIVx x) :=
  (formatXkk_maskLow _ _ _).trans rfl

theorem ldFVx (x : Reg) : Statement (.ldFVx x) :=
  (formatXkk_maskLow _ _ _).trans rfl

theorem ldBVx (x : Reg) : Statement (.ldBVx x) :=
  (formatXkk_maskLow _ _ _).trans rfl

theorem ldMemVx (x : Reg) : Statement (.ldMemVx x) :=
  (formatXkk_maskLow _ _ _).trans rfl

theorem ldVxMem (x : Reg) : Statement (.ldVxMem x) :=
  (formatXkk_maskLow _ _ _).trans rfl

end Sys2Proof.Laws.RowMatches

/-! ## The operands fit -/

namespace Sys2Proof.Laws.OperandsFit

/-- Every operand fits its field (R91). -/
def Statement (i : Instr) : Prop := i.wellFormed = true

theorem cls : Statement (.cls) := by
  unfold Statement
  decide

theorem ret : Statement (.ret) := by
  unfold Statement
  decide

theorem jp (nnn : Addr12) : Statement (.jp nnn) := by
  simp [Statement, Instr.wellFormed, Instr.operands, Operand.wellFormed, nnn.isLt]

theorem call (nnn : Addr12) : Statement (.call nnn) := by
  simp [Statement, Instr.wellFormed, Instr.operands, Operand.wellFormed, nnn.isLt]

theorem seVxKk (x : Reg) (kk : Byte) : Statement (.seVxKk x kk) := by
  simp [Statement, Instr.wellFormed, Instr.operands, Operand.wellFormed, x.isLt, kk.isLt]

theorem sneVxKk (x : Reg) (kk : Byte) : Statement (.sneVxKk x kk) := by
  simp [Statement, Instr.wellFormed, Instr.operands, Operand.wellFormed, x.isLt, kk.isLt]

theorem seVxVy (x y : Reg) : Statement (.seVxVy x y) := by
  simp [Statement, Instr.wellFormed, Instr.operands, Operand.wellFormed, x.isLt, y.isLt]

theorem ldVxKk (x : Reg) (kk : Byte) : Statement (.ldVxKk x kk) := by
  simp [Statement, Instr.wellFormed, Instr.operands, Operand.wellFormed, x.isLt, kk.isLt]

theorem addVxKk (x : Reg) (kk : Byte) : Statement (.addVxKk x kk) := by
  simp [Statement, Instr.wellFormed, Instr.operands, Operand.wellFormed, x.isLt, kk.isLt]

theorem ldVxVy (x y : Reg) : Statement (.ldVxVy x y) := by
  simp [Statement, Instr.wellFormed, Instr.operands, Operand.wellFormed, x.isLt, y.isLt]

theorem orVxVy (x y : Reg) : Statement (.orVxVy x y) := by
  simp [Statement, Instr.wellFormed, Instr.operands, Operand.wellFormed, x.isLt, y.isLt]

theorem andVxVy (x y : Reg) : Statement (.andVxVy x y) := by
  simp [Statement, Instr.wellFormed, Instr.operands, Operand.wellFormed, x.isLt, y.isLt]

theorem xorVxVy (x y : Reg) : Statement (.xorVxVy x y) := by
  simp [Statement, Instr.wellFormed, Instr.operands, Operand.wellFormed, x.isLt, y.isLt]

theorem addVxVy (x y : Reg) : Statement (.addVxVy x y) := by
  simp [Statement, Instr.wellFormed, Instr.operands, Operand.wellFormed, x.isLt, y.isLt]

theorem sub (x y : Reg) : Statement (.sub x y) := by
  simp [Statement, Instr.wellFormed, Instr.operands, Operand.wellFormed, x.isLt, y.isLt]

theorem shr (x y : Reg) : Statement (.shr x y) := by
  simp [Statement, Instr.wellFormed, Instr.operands, Operand.wellFormed, x.isLt, y.isLt]

theorem subn (x y : Reg) : Statement (.subn x y) := by
  simp [Statement, Instr.wellFormed, Instr.operands, Operand.wellFormed, x.isLt, y.isLt]

theorem shl (x y : Reg) : Statement (.shl x y) := by
  simp [Statement, Instr.wellFormed, Instr.operands, Operand.wellFormed, x.isLt, y.isLt]

theorem sneVxVy (x y : Reg) : Statement (.sneVxVy x y) := by
  simp [Statement, Instr.wellFormed, Instr.operands, Operand.wellFormed, x.isLt, y.isLt]

theorem ldINnn (nnn : Addr12) : Statement (.ldINnn nnn) := by
  simp [Statement, Instr.wellFormed, Instr.operands, Operand.wellFormed, nnn.isLt]

theorem jpV0 (nnn : Addr12) : Statement (.jpV0 nnn) := by
  simp [Statement, Instr.wellFormed, Instr.operands, Operand.wellFormed, nnn.isLt]

theorem rnd (x : Reg) (kk : Byte) : Statement (.rnd x kk) := by
  simp [Statement, Instr.wellFormed, Instr.operands, Operand.wellFormed, x.isLt, kk.isLt]

theorem drw (x y : Reg) (n : Nibble) : Statement (.drw x y n) := by
  simp [Statement, Instr.wellFormed, Instr.operands, Operand.wellFormed, x.isLt, y.isLt, n.isLt]

theorem skp (x : Reg) : Statement (.skp x) := by
  simp [Statement, Instr.wellFormed, Instr.operands, Operand.wellFormed, x.isLt]

theorem sknp (x : Reg) : Statement (.sknp x) := by
  simp [Statement, Instr.wellFormed, Instr.operands, Operand.wellFormed, x.isLt]

theorem ldVxDt (x : Reg) : Statement (.ldVxDt x) := by
  simp [Statement, Instr.wellFormed, Instr.operands, Operand.wellFormed, x.isLt]

theorem ldVxK (x : Reg) : Statement (.ldVxK x) := by
  simp [Statement, Instr.wellFormed, Instr.operands, Operand.wellFormed, x.isLt]

theorem ldDtVx (x : Reg) : Statement (.ldDtVx x) := by
  simp [Statement, Instr.wellFormed, Instr.operands, Operand.wellFormed, x.isLt]

theorem ldStVx (x : Reg) : Statement (.ldStVx x) := by
  simp [Statement, Instr.wellFormed, Instr.operands, Operand.wellFormed, x.isLt]

theorem addIVx (x : Reg) : Statement (.addIVx x) := by
  simp [Statement, Instr.wellFormed, Instr.operands, Operand.wellFormed, x.isLt]

theorem ldFVx (x : Reg) : Statement (.ldFVx x) := by
  simp [Statement, Instr.wellFormed, Instr.operands, Operand.wellFormed, x.isLt]

theorem ldBVx (x : Reg) : Statement (.ldBVx x) := by
  simp [Statement, Instr.wellFormed, Instr.operands, Operand.wellFormed, x.isLt]

theorem ldMemVx (x : Reg) : Statement (.ldMemVx x) := by
  simp [Statement, Instr.wellFormed, Instr.operands, Operand.wellFormed, x.isLt]

theorem ldVxMem (x : Reg) : Statement (.ldVxMem x) := by
  simp [Statement, Instr.wellFormed, Instr.operands, Operand.wellFormed, x.isLt]

end Sys2Proof.Laws.OperandsFit
end

