-- ==== Sys2Proof/Tests/Slice0.lean ====
section
/-! SUPPORT. Tests. Decode words are written out from the patterns of 30_encoding.md R99; one-step tests
take their expected values from spec/95_test_vectors.md (the vector's id stands in each comment); then a
witness for every statement that has hypotheses. -/

namespace Sys2Proof.Machine.Tests

/-! ## Well-formedness: each check refuses an ill-formed term -/

theorem test_operand_reg_out_of_range : (Operand.reg 16).wellFormed = false := by decide
theorem test_operand_byte_out_of_range : (Operand.byte 256).wellFormed = false := by decide
theorem test_operand_addr_out_of_range : (Operand.addr 4096).wellFormed = false := by decide
theorem test_operand_nibble_out_of_range : (Operand.nibble 16).wellFormed = false := by decide
theorem test_operands_at_their_limits :
    (Operand.reg 15).wellFormed && (Operand.byte 255).wellFormed && (Operand.addr 4095).wellFormed &&
      (Operand.nibble 15).wellFormed = true := by decide
/-- X5, X6. -/
theorem test_image_length :
    (Event.loadRom (List.replicate 3584 0xAA)).wellFormed = true ∧
      (Event.loadRom (List.replicate 3585 0xAA)).wellFormed = false := by
  simp only [Event.wellFormed, List.length_replicate]; decide

/-! ## Decoding: every row of R99, family by family -/

theorem test_decode_family_0 :
    decodeWord 0b0000000011100000#16 = some .cls ∧ decodeWord 0b0000000011101110#16 = some .ret := by decide
theorem test_decode_family_1 : decodeWord 0b0001101010111100#16 = some (.jp 0xABC) := by decide
theorem test_decode_family_2 : decodeWord 0b0010001100000001#16 = some (.call 0x301) := by decide
theorem test_decode_family_3 : decodeWord 0b0011101000000101#16 = some (.seVxKk 10 5) := by decide
theorem test_decode_family_4 : decodeWord 0b0100111110000001#16 = some (.sneVxKk 15 0x81) := by decide
theorem test_decode_family_5 : decodeWord 0b0101000100100000#16 = some (.seVxVy 1 2) := by decide
theorem test_decode_family_6 : decodeWord 0b0110101001011100#16 = some (.ldVxKk 10 0x5C) := by decide
theorem test_decode_family_7 : decodeWord 0b0111000100000011#16 = some (.addVxKk 1 3) := by decide
theorem test_decode_family_8 :
    decodeWord 0b1000101011110000#16 = some (.ldVxVy 10 15) ∧
    decodeWord 0b1000000100100001#16 = some (.orVxVy 1 2) ∧
    decodeWord 0b1000000100100010#16 = some (.andVxVy 1 2) ∧
    decodeWord 0b1000000100100011#16 = some (.xorVxVy 1 2) ∧
    decodeWord 0b1000000100100100#16 = some (.addVxVy 1 2) ∧
    decodeWord 0b1000000100100101#16 = some (.sub 1 2) ∧
    decodeWord 0b1000000001110110#16 = some (.shr 0 7) ∧
    decodeWord 0b1000000100100111#16 = some (.subn 1 2) ∧
    decodeWord 0b1000000001011110#16 = some (.shl 0 5) := by decide
theorem test_decode_family_9 : decodeWord 0b1001000100110000#16 = some (.sneVxVy 1 3) := by decide
theorem test_decode_family_A : decodeWord 0b1010001100000000#16 = some (.ldINnn 0x300) := by decide
theorem test_decode_family_B : decodeWord 0b1011111111111111#16 = some (.jpV0 0xFFF) := by decide
theorem test_decode_family_C : decodeWord 0b1100001100001111#16 = some (.rnd 3 0x0F) := by decide
theorem test_decode_family_D : decodeWord 0b1101000100100101#16 = some (.drw 1 2 5) := by decide
theorem test_decode_family_E :
    decodeWord 0b1110000110011110#16 = some (.skp 1) ∧
      decodeWord 0b1110000110100001#16 = some (.sknp 1) := by decide
theorem test_decode_family_F :
    decodeWord 0b1111000100000111#16 = some (.ldVxDt 1) ∧
    decodeWord 0b1111001100001010#16 = some (.ldVxK 3) ∧
    decodeWord 0b1111000000010101#16 = some (.ldDtVx 0) ∧
    decodeWord 0b1111001000011000#16 = some (.ldStVx 2) ∧
    decodeWord 0b1111001000011110#16 = some (.addIVx 2) ∧
    decodeWord 0b1111000000101001#16 = some (.ldFVx 0) ∧
    decodeWord 0b1111000000110011#16 = some (.ldBVx 0) ∧
    decodeWord 0b1111001001010101#16 = some (.ldMemVx 2) ∧
    decodeWord 0b1111010001100101#16 = some (.ldVxMem 4) := by decide
/-- FD2 to FD9. -/
theorem test_decode_illegal_words :
    [0x0000#16, 0x0123#16, 0x5121#16, 0x8018#16, 0x9121#16, 0xE19F#16, 0xF1FF#16, 0x00E1#16, 0x00FE#16,
      0x00EF#16].all (fun w => decodeWord w == none) = true := by decide
theorem test_table_word : decodeTableWord 16 0xD125 = some (.drw 1 2 5) ∧
    decodeTableWord 16 0x5121 = none := by decide

/-! ## One step -/

/-- The reset state with some V registers set. -/
def regs (l : List (Reg × Byte)) : State := l.foldl (fun s p => s.setReg p.1 p.2) State.reset

/-- The step that runs the word `w`, placed at PC, has a next state, and it passes the check. -/
def after (s : State) (w : Nat) (check : State → Bool) : Bool :=
  match step (s.withFetchWord 16 w) with
  | .next t => check t
  | .fault _ => false
  | .refused _ => false

/-- The step that issues the event has a next state, and it passes the check. -/
def afterEvent (s : State) (e : Event) (check : State → Bool) : Bool :=
  match step { s with schedule := ⟨[e], .stop⟩ } with
  | .next t => check t
  | .fault _ => false
  | .refused _ => false

/-- `V[x]`, VF and PC. -/
def regFlagPc (t : State) (x : Reg) : Byte × Byte × Word := (t.reg x, t.reg vf, t.pc)

/-- The rows of the list. -/
def rowBits (t : State) (l : List (Fin 32)) : List (BitVec 64) := l.map (fun y => t.fb[y.val])

/-- FD1. -/
theorem test_fetch_high_byte_first :
    after State.reset 0x1234 (fun t => t.opcode == 0x1234 && t.pc == 0x234) = true := by decide
/-- FD2. -/
theorem test_empty_memory_faults :
    afterEvent State.reset .cycle (fun t => t.fault == .unimplementedOpcode && t.pc == 0x200 &&
      t.opcode == 0) = true := by decide
/-- FD4. -/
theorem test_illegal_word_faults :
    after State.reset 0x5121 (fun t => t.fault == .unimplementedOpcode && t.pc == 0x200 &&
      t.opcode == 0x5121) = true := by decide
/-- FD10. -/
theorem test_odd_pc_faults :
    afterEvent { State.reset with pc := 0x201, opcode := 0x1201 } .cycle (fun t =>
      t.fault == .pcMisaligned && t.pc == 0x201 && t.opcode == 0x1201) = true := by decide
/-- FD11. -/
theorem test_range_before_parity :
    afterEvent { State.reset with pc := 0xFFF } .cycle (fun t =>
      t.fault == .fetchOutOfRange && t.pc == 0xFFF) = true := by decide
/-- FD13. -/
theorem test_last_word_is_fetched :
    after { State.reset with pc := 0xFFE } 0x1200 (fun t => t.fault == .none && t.pc == 0x200) = true := by
  decide
/-- FD15. -/
theorem test_tick_while_halted :
    afterEvent { State.reset with fault := .unimplementedOpcode, dt := 2, st := 1 } .timerTick (fun t =>
      t.dt == 1 && t.st == 0 && t.fault == .unimplementedOpcode) = true := by decide

/-- J10. -/
theorem test_ret :
    after { State.reset with sp := 1, stack := State.reset.stack.set 0 0x206, pc := 0x300 } 0x00EE
      (fun t => t.pc == 0x206 && t.sp == 0 && t.stack[0] == 0x206) = true := by decide
/-- J11. -/
theorem test_ret_underflow :
    after State.reset 0x00EE (fun t => t.fault == .stackUnderflow && t.pc == 0x200 && t.sp == 0) = true := by
  decide
/-- J1. -/
theorem test_jp : after State.reset 0x1ABC (fun t => t.pc == 0xABC) = true := by decide
/-- J9. -/
theorem test_call :
    after { State.reset with pc := 0xFFE } 0x2300
      (fun t => t.pc == 0x300 && t.sp == 1 && t.stack[0] == 0x1000) = true := by decide
/-- J8. -/
theorem test_call_overflow :
    after { State.reset with sp := 16 } 0x2300
      (fun t => t.fault == .stackOverflow && t.pc == 0x200 && t.sp == 16 && t.stack == State.reset.stack) =
        true := by decide
/-- J14. -/
theorem test_jp_v0 : after (regs [(0, 0xFF)]) 0xBFFF (fun t => t.pc == 0x10FE) = true := by decide
/-- J16. -/
theorem test_jp_v0_is_not_vx : after (regs [(3, 0x55)]) 0xB300 (fun t => t.pc == 0x300) = true := by decide

/-- S2, V1 = V2 = 22, V3 = 23: a condition that holds and one that does not, for each skip. -/
theorem test_register_skips :
    [(0x3122, 0x204#16), (0x3123, 0x202#16), (0x4123, 0x204#16), (0x4122, 0x202#16), (0x5120, 0x204#16),
      (0x5130, 0x202#16), (0x9130, 0x204#16), (0x9120, 0x202#16)].all (fun p =>
        after (regs [(1, 0x22), (2, 0x22), (3, 0x23)]) p.1 (fun t => t.pc == p.2)) = true := by decide
/-- K4. -/
theorem test_skip_past_the_end :
    after { State.reset with pc := 0xFFE } 0x3000 (fun t => t.pc == 0x1002 && t.fault == .none) = true := by
  decide
/-- K6, K7. -/
theorem test_skp :
    after { regs [(1, 5)] with keys := 0x0020 } 0xE19E (fun t => t.pc == 0x204) &&
      after { regs [(1, 5)] with keys := 0xFFDF } 0xE19E (fun t => t.pc == 0x202) = true := by decide
/-- K10. -/
theorem test_skp_key_index :
    after { regs [(1, 0x10)] with keys := 0xFFFF } 0xE19E (fun t =>
      t.fault == .keyIndexOutOfRange && t.pc == 0x200) = true := by decide
/-- K8, K9. -/
theorem test_sknp :
    after { regs [(1, 5)] with keys := 0x0020 } 0xE1A1 (fun t => t.pc == 0x202) &&
      after (regs [(1, 5)]) 0xE1A1 (fun t => t.pc == 0x204) = true := by decide
/-- K11. -/
theorem test_sknp_key_index :
    after (regs [(1, 0xFF)]) 0xE1A1 (fun t => t.fault == .keyIndexOutOfRange && t.pc == 0x200) = true := by
  decide

/-- A1. -/
theorem test_ld_byte : after State.reset 0x6A5C (fun t => regFlagPc t 10 == (0x5C, 0, 0x202)) = true := by
  decide
/-- A4. -/
theorem test_add_byte :
    after (regs [(1, 0xFF), (15, 0x5A)]) 0x7101 (fun t => regFlagPc t 1 == (0, 0x5A, 0x202)) = true := by
  decide
/-- A6. -/
theorem test_ld_reg : after (regs [(2, 0x77)]) 0x8120 (fun t => t.reg 1 == 0x77 && t.reg 2 == 0x77) = true := by
  decide
/-- A7. -/
theorem test_or :
    after (regs [(1, 0x0C), (2, 0x0A), (15, 0x5A)]) 0x8121 (fun t => regFlagPc t 1 == (0x0E, 0x5A, 0x202)) =
      true := by decide
/-- A8. -/
theorem test_and :
    after (regs [(1, 0x0C), (2, 0x0A), (15, 0x5A)]) 0x8122 (fun t => regFlagPc t 1 == (0x08, 0x5A, 0x202)) =
      true := by decide
/-- A9. -/
theorem test_xor :
    after (regs [(1, 0x0C), (2, 0x0A), (15, 0x5A)]) 0x8123 (fun t => regFlagPc t 1 == (0x06, 0x5A, 0x202)) =
      true := by decide
/-- A12, A13. -/
theorem test_add :
    after (regs [(0, 0xFE), (1, 1)]) 0x8014 (fun t => regFlagPc t 0 == (0xFF, 0, 0x202)) &&
      after (regs [(0, 0x80), (1, 0x80)]) 0x8014 (fun t => regFlagPc t 0 == (0, 1, 0x202)) = true := by decide
/-- A15, A16. -/
theorem test_add_with_vf :
    after (regs [(15, 0xF0), (1, 0x20)]) 0x8F14 (fun t => t.reg vf == 0x10) &&
      after (regs [(1, 0xFF), (15, 1)]) 0x81F4 (fun t => regFlagPc t 1 == (0, 1, 0x202)) = true := by decide
/-- A18, A19. -/
theorem test_sub :
    after (regs [(0, 1), (1, 2)]) 0x8015 (fun t => regFlagPc t 0 == (0xFF, 0, 0x202)) &&
      after (regs [(0, 7), (1, 7)]) 0x8015 (fun t => regFlagPc t 0 == (0, 0, 0x202)) = true := by decide
/-- A21, A22. -/
theorem test_sub_with_vf :
    after (regs [(15, 9), (1, 4)]) 0x8F15 (fun t => t.reg vf == 5) &&
      after (regs [(1, 0x0A), (15, 3)]) 0x81F5 (fun t => regFlagPc t 1 == (7, 1, 0x202)) = true := by decide
/-- A25. -/
theorem test_shr :
    after (regs [(0, 0xFE), (7, 0x55)]) 0x8076 (fun t => regFlagPc t 0 == (0x7F, 0, 0x202) &&
      t.reg 7 == 0x55) = true := by decide
/-- A27. -/
theorem test_shr_vf : after (regs [(15, 7)]) 0x8F06 (fun t => t.reg vf == 3) = true := by decide
/-- A28, A29. -/
theorem test_subn :
    after (regs [(0, 3), (1, 5)]) 0x8017 (fun t => regFlagPc t 0 == (2, 1, 0x202)) &&
      after (regs [(0, 5), (1, 3)]) 0x8017 (fun t => regFlagPc t 0 == (0xFE, 0, 0x202)) = true := by decide
/-- A31, A32. -/
theorem test_subn_with_vf :
    after (regs [(15, 2), (1, 0x0A)]) 0x8F17 (fun t => t.reg vf == 8) &&
      after (regs [(1, 2), (15, 0x0A)]) 0x81F7 (fun t => regFlagPc t 1 == (8, 1, 0x202)) = true := by decide
/-- A35. -/
theorem test_shl :
    after (regs [(0, 0x80), (5, 0xFF)]) 0x805E (fun t => regFlagPc t 0 == (0, 1, 0x202) &&
      t.reg 5 == 0xFF) = true := by decide
/-- A36. -/
theorem test_shl_vf : after (regs [(15, 0xC1)]) 0x8F0E (fun t => t.reg vf == 0x82) = true := by decide
/-- A37, with the random byte left free. -/
theorem test_rnd :
    ∃ t, step (State.reset.withFetchWord 16 0xC00F) = .next t ∧
      t.reg 0 = Config.randomByte 0 &&& 0x0F ∧ t.draws = 1 ∧ t.pc = 0x202 := ⟨_, rfl, rfl, rfl, rfl⟩

/-- M2. -/
theorem test_ld_i : after State.reset 0xAFFF (fun t => t.i == 0xFFF) = true := by decide
/-- M4, M5. -/
theorem test_add_i :
    after { regs [(0, 1)] with i := 0xFFF } 0xF01E (fun t => t.i == 0x1000 && t.reg vf == 0) &&
      after { regs [(0, 1)] with i := 0xFFFF } 0xF01E (fun t => t.i == 0 && t.fault == .none) = true := by
  decide
/-- M8. -/
theorem test_ld_f :
    after (regs [(0, 0x10)]) 0xF029 (fun t => t.i == 0xA0) &&
      after (regs [(0, 0xFF)]) 0xF029 (fun t => t.i == 0x54B) = true := by decide
/-- M9. -/
theorem test_bcd :
    after { regs [(0, 0xEA)] with i := 0xFFD } 0xF033 (fun t =>
      t.mem.readBytes 0xFFD 3 == [2, 3, 4] && t.i == 0xFFD) = true := by decide
/-- M10. -/
theorem test_bcd_out_of_range :
    after { regs [(0, 0xEA)] with i := 0xFFE } 0xF033 (fun t => t.fault == .addressOutOfRange &&
      t.pc == 0x200 && t.mem.readBytes 0xFFE 2 == [0, 0]) = true := by decide
/-- M12. -/
theorem test_store :
    after { regs [(0, 0x11), (1, 0x22), (2, 0x33)] with i := 0x400 } 0xF255 (fun t =>
      t.mem.readBytes 0x400 4 == [0x11, 0x22, 0x33, 0] && t.i == 0x400) = true := by decide
/-- M14. -/
theorem test_store_out_of_range :
    after { regs [(0, 0x11)] with i := 0xFFF } 0xF155 (fun t => t.fault == .addressOutOfRange &&
      t.pc == 0x200 && t.mem.read 0xFFF == 0) = true := by decide
/-- M18. -/
theorem test_load :
    after { regs [(2, 0x77)] with i := 0x400, mem := State.reset.mem.writeBytes 0x400 [0xAA, 0xBB] } 0xF165
      (fun t => t.reg 0 == 0xAA && t.reg 1 == 0xBB && t.reg 2 == 0x77 && t.i == 0x400) = true := by decide
/-- M21. -/
theorem test_load_out_of_range :
    after { regs [(0, 5)] with i := 0x1000 } 0xF065 (fun t => t.fault == .addressOutOfRange &&
      t.reg 0 == 5) = true := by decide

/-- DR1. -/
theorem test_cls :
    after { regs [(15, 0x5A)] with fb := Vector.replicate 32 (BitVec.allOnes 64) } 0x00E0 (fun t =>
      t.fb == clearFb && t.redraw && t.reg vf == 0x5A) = true := by decide
/-- The state of the DR vectors: I = 0300 and the sprite there. -/
def sprite (l : List (Reg × Byte)) (bytes : List Byte) : State :=
  { regs l with i := 0x300, mem := State.reset.mem.writeBytes 0x300 bytes }
/-- DR7: both wraps of a row, and DR17: the row origin is the old VF. -/
theorem test_drw :
    after (sprite [(1, 0x1F)] [0x80, 0x80]) 0xD012 (fun t => rowBits t [31, 0, 1] == [1, 1, 0] && t.redraw &&
        t.reg vf == 0) &&
      after (sprite [(1, 2), (15, 5)] [0x80]) 0xD1F1 (fun t => rowBits t [5, 0] == [4, 0] && t.reg vf == 0) = true := by
  decide
/-- DR15: a collision and a pixel left alone; DR13: the fault comes before any effect. -/
theorem test_drw_collision_and_fault :
    after { sprite [] [0xF0] with fb := State.reset.fb.set 0 0x24 } 0xD011 (fun t =>
        rowBits t [0, 1] == [0x2B, 0] && t.reg vf == 1) &&
      after { regs [(15, 0x5A)] with i := 0xFFF } 0xD012 (fun t => t.fault == .addressOutOfRange &&
        t.reg vf == 0x5A && !t.redraw && t.pc == 0x200) = true := by decide

/-- T7. -/
theorem test_ld_vx_dt :
    after { State.reset with dt := 0x2A } 0xF107 (fun t => t.reg 1 == 0x2A && t.dt == 0x2A) = true := by
  decide
/-- T1. -/
theorem test_wait_no_key : after State.reset 0xF30A (fun t => t.pc == 0x200 && t.reg 3 == 0) = true := by
  decide
/-- T2. -/
theorem test_wait_lowest_key :
    after { State.reset with keys := 0x48 } 0xF30A (fun t => t.pc == 0x202 && t.reg 3 == 3) = true := by
  decide
/-- T8. -/
theorem test_ld_dt : after (regs [(0, 0x3C)]) 0xF015 (fun t => t.dt == 0x3C && t.st == 0) = true := by decide
/-- T9. -/
theorem test_ld_st :
    after (regs [(2, 5)]) 0xF218 (fun t => t.st == 5 && t.tone && t.dt == 0) = true := by decide
/-- T12, T11. -/
theorem test_timer_tick :
    afterEvent { State.reset with dt := 0xFF, st := 1 } .timerTick (fun t => t.dt == 0xFE && t.st == 0 &&
        !t.tone) &&
      afterEvent State.reset .timerTick (fun t => t.dt == 0 && t.st == 0) = true := by decide
/-- X2. -/
theorem test_load_rom :
    afterEvent State.reset (.loadRom [0x12, 0x00]) (fun t => t.mem.read 0x200 == 0x12 &&
      t.mem.read 0x201 == 0) = true := by decide
/-- X4. -/
theorem test_reset_memory :
    State.reset.mem.readBytes 0x4F 6 = [0, 0xF0, 0x90, 0x90, 0x90, 0xF0] ∧
      State.reset.mem.readBytes 0x9B 6 = [0xF0, 0x80, 0xF0, 0x80, 0x80, 0] := by decide
/-- X1: FONT comes back where a program had written over it. -/
theorem test_reset_event :
    afterEvent { regs [(3, 7)] with pc := 0x300, mem := State.reset.mem.write 0x50 1 } .reset
      (fun t => t == { State.reset with schedule := ⟨[], .stop⟩ }) = true := by decide

/-! ## Witnesses: a concrete state and operands that meet the hypotheses of each statement -/

/-- The answer is the next state `t`. -/
def answers (r : Result) (t : State) : Bool :=
  match r with
  | .next u => u == t
  | .fault _ => false
  | .refused _ => false

theorem next_of_answers {r : Result} {t : State} (h : answers r t = true) : r = .next t := by
  cases r with
  | next u => exact congrArg _ (by simpa [answers] using h)
  | fault f => cases f
  | refused f => simp [answers] at h

/-- The reset state with the word at PC. -/
def at200 (w : Nat) : State := State.reset.withFetchWord 16 w

theorem witness_EncodeOfDecode : decodeWord 0x8076 = some (.shr 0 7) := by decide

theorem witness_DecodeIsTheOpcodeMap :
    decodeWord 0xF265 = some (.ldVxMem 2) ∧ decodeWord 0x5121 = none ∧
      (opcodeTable.filter (fun r => r.matchesWord 0xF265)).length = 1 := by decide

theorem witness_StepRunsTheDecodedInstruction :
    (at200 0x6A5C).running = true ∧ (at200 0x6A5C).pc.toNat ≤ 4094 ∧ (at200 0x6A5C).pc.toNat % 2 = 0 ∧
      decode [(at200 0x6A5C).mem.read 0x200, (at200 0x6A5C).mem.read 0x201] = .ok (.ldVxKk 10 0x5C, []) := by
  decide

/-- The last PC a fetch can use. -/
theorem witness_StepRunsTheDecodedInstruction_at_the_end :
    let s := { State.reset with pc := 0xFFE }.withFetchWord 16 0x6A5C
    s.running = true ∧ s.pc.toNat = 4094 ∧
      decode [s.mem.read s.pc.toNat, s.mem.read (s.pc.toNat + 1)] = .ok (.ldVxKk 10 0x5C, []) := by
  decide

/-- The four forms of what is to come. -/
theorem witness_StepIssuesTheNextEvent :
    ({ State.reset with schedule := ⟨[.timerTick], .stop⟩ } : State).schedule = ⟨.timerTick :: [], .stop⟩ ∧
      State.reset.schedule = ⟨[], .again .cycle []⟩ ∧
      ({ State.reset with schedule := ⟨[], .free 0⟩ } : State).schedule = ⟨[], .free 0⟩ ∧
      ({ State.reset with schedule := ⟨[], .stop⟩ } : State).schedule = ⟨[], .stop⟩ := ⟨rfl, rfl, rfl, rfl⟩

/-- PC = 4095 for the first clause, 4093 for the second, 4094 for the third. -/
theorem witness_FetchChecksThenWord :
    ({ State.reset with pc := 0xFFF } : State).pc.toNat + 1 > 4095 ∧
      ({ State.reset with pc := 0xFFD } : State).pc.toNat + 1 ≤ 4095 ∧
      ({ State.reset with pc := 0xFFD } : State).pc.toNat % 2 = 1 ∧
      ({ State.reset with pc := 0xFFE } : State).pc.toNat + 1 ≤ 4095 ∧
      ({ State.reset with pc := 0xFFE } : State).pc.toNat % 2 = 0 ∧ State.reset.fault = .none := by decide

theorem witness_IllegalWordFaults :
    State.reset.fault = .none ∧ State.reset.pc.toNat + 1 ≤ 4095 ∧ State.reset.pc.toNat % 2 = 0 ∧
      ∀ r ∈ opcodeTable, r.matchesWord (wordOfBytes (State.reset.mem.read State.reset.pc.toNat)
        (State.reset.mem.read (State.reset.pc.toNat + 1))) = false := by decide

theorem witness_HaltedCoreOnlyTakesHostEvents :
    ({ State.reset with fault := .unimplementedOpcode, dt := 2 } : State).fault ≠ .none := by decide

/-- A fault at decode, and one at fetch, where OPCODE stays. -/
theorem witness_FaultsArePrecise :
    State.reset.fault = .none ∧
      State.reset.event .cycle = .next { State.reset with fault := .unimplementedOpcode } ∧
      ({ State.reset with pc := 0x201, opcode := 0x1201 } : State).event .cycle =
        .next { State.reset with pc := 0x201, opcode := 0x1201, fault := .pcMisaligned } := by
  repeat' apply And.intro
  all_goals first | decide | exact next_of_answers (by decide)

/-- Each cause arises. -/
theorem witness_FaultCausesInPriorityOrder :
    cycleCause { State.reset with pc := 0xFFF } = .fetchOutOfRange ∧
      cycleCause { State.reset with pc := 0x201 } = .pcMisaligned ∧
      cycleCause State.reset = .unimplementedOpcode ∧
      cycleCause { at200 0x2300 with sp := 16 } = .stackOverflow ∧
      cycleCause (at200 0x00EE) = .stackUnderflow ∧
      cycleCause { at200 0xF033 with i := 0xFFE } = .addressOutOfRange ∧
      cycleCause ((at200 0xE19E).setReg 1 0x10) = .keyIndexOutOfRange ∧
      cycleCause (at200 0x1200) = .none := by decide

theorem witness_FaultIsSticky :
    ({ State.reset with fault := .stackOverflow } : State).fault ≠ .none ∧
      ({ State.reset with fault := .stackOverflow } : State).event .reset = .next State.reset ∧
      ({ State.reset with fault := .stackOverflow } : State).event (.setKeys 1) =
        .next { State.reset with fault := .stackOverflow, keys := 1 } := by
  repeat' apply And.intro
  all_goals first | decide | exact next_of_answers (by decide)

theorem witness_OnlyAnOversizedImageIsRefused :
    3584 < (List.replicate 3585 (0xAA : Byte)).length := by rw [List.length_replicate]; decide

/-- A state that meets the invariant with a live entry and a listed cell, and its step. -/
theorem witness_EveryStepKeepsTheInvariant :
    (at200 0x2300).Inv ∧
      step (at200 0x2300) = .next { at200 0x2300 with
        opcode := 0x2300, pc := 0x300, sp := 1, stack := State.reset.stack.set 0 0x202 } :=
  ⟨⟨by decide, by decide, by decide⟩, next_of_answers (by decide)⟩

theorem witness_MemoryReadAfterWrite :
    State.reset.mem.wf = true ∧ 4095 < 4096 ∧ (State.reset.mem.write 4095 1).read 4095 = 1 := by decide

theorem witness_EqualMemoriesAreEqualData :
    (State.reset.mem.write 0x300 5).wf = true ∧
      ((State.reset.mem.write 0x300 5).write 0x300 0).font = State.reset.mem.font ∧
      ((State.reset.mem.write 0x300 5).write 0x300 0) = State.reset.mem := by decide

/-- Each clause: an event of the host, a CALL, Fx15, CLS and Fx55. -/
theorem witness_WhoWritesWhat :
    State.reset.event (.loadRom [1]) = .next { State.reset with mem := State.reset.mem.write 0x200 1 } ∧
      State.reset.event (.setKeys 1) = .next { State.reset with keys := 1 } ∧
      State.reset.event .ackRedraw = .next State.reset ∧
      State.reset.event .timerTick = .next State.reset ∧
      (at200 0x2300).event .cycle = .next { at200 0x2300 with
        opcode := 0x2300, pc := 0x300, sp := 1, stack := State.reset.stack.set 0 0x202 } ∧
      ((at200 0xF015).setReg 0 1).event .cycle = .next { (at200 0xF015).setReg 0 1 with
        opcode := 0xF015, pc := 0x202, dt := 1 } ∧
      ((at200 0xF018).setReg 0 1).event .cycle = .next { (at200 0xF018).setReg 0 1 with
        opcode := 0xF018, pc := 0x202, st := 1 } ∧
      (at200 0x00E0).event .cycle = .next { at200 0x00E0 with
        opcode := 0x00E0, pc := 0x202, redraw := true } := by
  repeat' apply And.intro
  all_goals first | decide | exact next_of_answers (by decide)

theorem witness_WhoWritesWhat_memory :
    ({ (at200 0xF055).setReg 0 1 with i := 0x300 } : State).event .cycle =
      .next { (at200 0xF055).setReg 0 1 with
        opcode := 0xF055, pc := 0x202, i := 0x300, mem := (at200 0xF055).mem.write 0x300 1 } := by
  exact next_of_answers (by decide)

/-- A cycle in a state with REDRAW set and a timer that runs. -/
theorem witness_WhatACycleDoesNotDo :
    ({ at200 0x1200 with redraw := true, dt := 5 } : State).event .cycle =
      .next { at200 0x1200 with redraw := true, dt := 5, opcode := 0x1200 } := by
  exact next_of_answers (by decide)

theorem witness_WhatACycleDoesNotDo_random :
    ∃ t, (at200 0xC00F).event .cycle = .next t ∧ t.draws = 1 := ⟨_, rfl, rfl⟩

/-- An instruction outside all three lists, and its next state. -/
theorem witness_RegisterWriters :
    writesV (.jp 0x300) = false ∧ mayWriteVf (.jp 0x300) = false ∧ ¬writesI (.jp 0x300) ∧
      exec (.jp 0x300) State.reset = .next { State.reset with pc := 0x300 } :=
  ⟨rfl, rfl, by simp [writesI], next_of_answers (by decide)⟩

theorem witness_SoundTimerRedrawAndOpcodeAreNeverRead :
    (at200 0xF218).event .cycle = .next { at200 0xF218 with opcode := 0xF218, pc := 0x202 } := by
  exact next_of_answers (by decide)

/-- SP = 0, 1 and 16. -/
theorem witness_RetPopsTheReturnAddress :
    State.reset.sp.val = 0 ∧ State.reset.pc = 0x1FE + 2 ∧
      ({ State.reset with sp := 1 } : State).sp.val = (0 : Fin 16).val + 1 ∧
      ({ State.reset with sp := 16 } : State).sp.val = (15 : Fin 16).val + 1 := by decide

/-- SP = 16, 0 and 15. -/
theorem witness_CallPushesTheAdvancedPc :
    ({ State.reset with sp := 16 } : State).sp.val = 16 ∧ State.reset.pc = 0x1FE + 2 ∧
      State.reset.sp.val = (0 : Fin 16).val ∧
      ({ State.reset with sp := 15 } : State).sp.val = (15 : Fin 16).val := by decide

theorem witness_RetUndoesCall :
    State.reset.sp.val < 16 ∧
      exec (.call 0x300) State.reset = .next { State.reset with
        pc := 0x300, sp := 1, stack := State.reset.stack.set 0 0x200 } := by
  repeat' apply And.intro
  all_goals first | decide | exact next_of_answers (by decide)

/-- Targets 0x201, 0xFFD and 0xFFF, and the jump to itself at 0x200. -/
theorem witness_JumpTakesTheTarget :
    State.reset.fault = .none ∧ (0x201 : Addr12).toNat % 2 = 1 ∧ (0xFFD : Addr12).toNat % 2 = 1 ∧
      (0xFFD : Addr12).toNat ≤ 4093 ∧ (0xFFF : Addr12).toNat = 0xFFF ∧
      (at200 0x1200).pc.toNat = (0x200 : Addr12).toNat ∧ (0x200 : Addr12).toNat % 2 = 0 ∧
      wordOfBytes ((at200 0x1200).mem.read 0x200) ((at200 0x1200).mem.read 0x201) =
        formatNnn 0x1 0x200 := by decide

/-- Key numbers 15 and 16. -/
theorem witness_KeySkips :
    ((regs [(1, 15)]).reg 1).toNat ≤ 15 ∧ ((regs [(1, 16)]).reg 1).toNat > 15 ∧
      ({ regs [(1, 15)] with keys := 0x8000 } : State).keys.getLsbD 15 = true ∧
      State.reset.pc = 0x1FE + 2 := by decide

/-- I = 0xFFE and 0xFFD. -/
theorem witness_BcdStoresThreeDigits :
    ({ State.reset with i := 0xFFE } : State).i.toNat + 2 > 4095 ∧
      ({ State.reset with i := 0xFFD } : State).i.toNat + 2 ≤ 4095 ∧ State.reset.mem.wf = true := by decide

/-- I = 0xFF1 and 0xFF0 with x = 15; the same states serve `LoadBlock`. -/
theorem witness_StoreBlock :
    ({ State.reset with i := 0xFF1 } : State).i.toNat + (15 : Reg).toNat > 4095 ∧
      ({ State.reset with i := 0xFF0 } : State).i.toNat + (15 : Reg).toNat ≤ 4095 ∧
      State.reset.mem.wf = true := by decide

theorem witness_LoadBlock :
    ({ State.reset with i := 0x1000 } : State).i.toNat + (0 : Reg).toNat > 4095 ∧
      ({ State.reset with i := 0xFFF } : State).i.toNat + (0 : Reg).toNat ≤ 4095 := by decide

/-- V0 = 1 stored at 0x300, and a state with the registers cleared and the memory of the store. -/
theorem witness_LoadRestoresWhatStoreSaved :
    let s : State := { regs [(0, 1)] with i := 0x300 }
    let t : State := { s with mem := s.mem.write 0x300 1 }
    let t' : State := t.setReg 0 0
    s.mem.wf = true ∧ s.i.toNat + (0 : Reg).toNat ≤ 4095 ∧ exec (.ldMemVx 0) s = .next t ∧
      t'.mem = t.mem ∧ t'.i = s.i := by
  intro s t t'
  repeat' apply And.intro
  all_goals first | decide | exact next_of_answers (by decide)

/-- FD18: 0x1206 stored at 0x204. -/
theorem witness_FetchSeesTheStoredWord :
    let s : State := { regs [(0, 0x12), (1, 0x06)] with i := 0x204 }
    let t : State := { s with mem := s.mem.writeBytes 0x204 [0x12, 0x06] }
    let t' : State := { t with pc := 0x204 }
    s.mem.wf = true ∧ s.i.toNat + (1 : Reg).toNat ≤ 4095 ∧ exec (.ldMemVx 1) s = .next t ∧
      (0 : Reg).toNat + 1 ≤ (1 : Reg).toNat ∧ t'.mem = t.mem ∧
      t'.pc.toNat = s.i.toNat + (0 : Reg).toNat := by
  intro s t t'
  repeat' apply And.intro
  all_goals first | decide | exact next_of_answers (by decide)

/-- The span that just fails and the one that just fits, and n = 0. -/
theorem witness_DrawSprite_spans :
    ((2 : Nibble).toNat ≥ 1 ∧ ({ State.reset with i := 0xFFF } : State).i.toNat + (2 : Nibble).toNat - 1 > 4095) ∧
      ({ State.reset with i := 0xFFF } : State).i.toNat + (1 : Nibble).toNat - 1 ≤ 4095 ∧
      (0 : Nibble).toNat = 0 ∧ State.reset.pc = 0x1FE + 2 := by decide

/-- A sprite that covers (63, 31) and wraps onto (0, 31). -/
theorem witness_DrawSprite_covers :
    spriteCovers (sprite [(0, 0x3F), (1, 0x1F)] [0xC0]) 0 1 1 31 63 ∧
      spriteCovers (sprite [(0, 0x3F), (1, 0x1F)] [0xC0]) 0 1 1 31 0 :=
  ⟨⟨0, 0, by decide⟩, ⟨0, 1, by decide⟩⟩

/-- A blank row covers nothing, so nothing collides. -/
theorem witness_DrawSprite_covers_nothing :
    ¬spriteCovers (sprite [] [0x80]) 0 1 0 0 0 ∧
      ¬∃ py px, spriteCovers (sprite [] [0x80]) 0 1 0 py px ∧
        pixel (sprite [] [0x80]).fb py px = true :=
  ⟨fun ⟨_, _, h, _⟩ => absurd h (Nat.not_lt_zero _),
    fun ⟨_, _, ⟨_, _, h, _⟩, _⟩ => absurd h (Nat.not_lt_zero _)⟩

/-- A covered pixel that is on at the start: the collision clause; the second pixel of the row is off. -/
theorem witness_DrawSprite_collides :
    let s : State := { sprite [] [0xC0] with fb := State.reset.fb.set 0 1 }
    spriteCovers s 0 1 1 0 0 ∧ pixel s.fb 0 0 = true ∧ spriteCovers s 0 1 1 0 1 ∧ pixel s.fb 0 1 = false :=
  ⟨⟨0, 0, by decide⟩, by decide, ⟨0, 1, by decide⟩, by decide⟩

theorem witness_DrawingTwiceRestores :
    let s := sprite [] [0xFF]
    let t := s.draw 0 1 1
    (s.i.toNat + (1 : Nibble).toNat - 1 ≤ 4095) ∧ exec (.drw 0 1 1) s = .next t ∧ t.i = s.i ∧
      t.mem = s.mem ∧ t.reg 0 = s.reg 0 ∧ t.reg 1 = s.reg 1 := by
  intro s t
  repeat' apply And.intro
  all_goals first | decide | exact next_of_answers (by decide)

/-- No key; keys 3 and 6, and key 15 alone. -/
theorem witness_WaitForKey :
    (State.reset.keys = 0 ∧ State.reset.pc = 0x1FE + 2) ∧
      ((0x48#16).getLsbD (3 : Fin 16).val = true ∧ ∀ j, j < 3 → (0x48#16).getLsbD j = false) ∧
      ((0x8000#16).getLsbD (15 : Fin 16).val = true ∧ ∀ j, j < 15 → (0x8000#16).getLsbD j = false) := by
  decide

/-- Timers at 0, 1 and 255. -/
theorem witness_TimerTickCountsDown :
    ({ State.reset with dt := 0xFF, st := 1 } : State).dt.toNat > 0 ∧
      ({ State.reset with dt := 0xFF, st := 1 } : State).st.toNat > 0 ∧ State.reset.dt.toNat = 0 ∧
      State.reset.st.toNat = 0 := by decide

theorem witness_TicksRunATimerOut :
    let s : State := { State.reset with dt := 3, st := 1, schedule := ⟨[.timerTick, .timerTick, .cycle], .stop⟩ }
    s.schedule.events = List.replicate 2 .timerTick ++ [.cycle] ∧
      steps 2 s = .next { State.reset with dt := 1, st := 0, schedule := ⟨[.cycle], .stop⟩ } := by
  intro s
  repeat' apply And.intro
  all_goals first | decide | exact next_of_answers (by decide)

/-- The first and the last bit of the display port. -/
theorem witness_HostEventsAndPorts :
    (0 : Fin 2048).val = (0 : Fin 32).val * 64 + (0 : Fin 64).val ∧
      (2047 : Fin 2048).val = (31 : Fin 32).val * 64 + (63 : Fin 64).val := by decide

/-- Images of 0, 3584 and 3585 bytes. -/
theorem witness_LoadRomWritesTheImage :
    State.reset.mem.wf = true ∧ ([] : List Byte).length ≤ 3584 ∧
      (List.replicate 3584 (0xAA : Byte)).length ≤ 3584 ∧
      3584 < (List.replicate 3585 (0xAA : Byte)).length := by
  rw [List.length_replicate, List.length_replicate]; decide

theorem witness_NoProgramFaultsAtOnce :
    ({ State.reset with pc := 0x300, fault := .pcMisaligned } : State).event .reset = .next State.reset ∧
      State.reset.event (.loadRom []) = .next State.reset := by
  repeat' apply And.intro
  all_goals first | decide | exact next_of_answers (by decide)

/-- A tick and a key event that recur, and the state after each has been issued once. -/
theorem witness_RecurringEventsRecur :
    let s : State := { State.reset with dt := 3, schedule := ⟨[], .again .timerTick [.setKeys 1]⟩ }
    s.schedule = ⟨[], .again .timerTick [.setKeys 1]⟩ ∧
      steps ([Event.setKeys 1].length + 1) s = .next { s with dt := 2, keys := 1 } := by
  intro s
  repeat' apply And.intro
  all_goals first | decide | exact next_of_answers (by decide)

/-- After the recurring ticks and cycles of a schedule without end, the next tick comes. -/
theorem test_ticks_recur :
    (match steps 5 { State.reset with dt := 9, schedule := ⟨[], .again .timerTick [.cycle]⟩ } with
      | .next t => t.dt == 6
      | .fault _ => false
      | .refused _ => false) = true := by decide

/-- The word runs first also in an environment about which nothing is known. -/
theorem test_word_runs_before_the_free_events :
    after { State.reset with schedule := ⟨[], .free 0⟩ } 0x6A5C (fun t => t.reg 10 == 0x5C) = true := by decide

end Sys2Proof.Machine.Tests
end

/-! PROOFS. The schedule and the memory (00_scope.md R7, R11, R14). -/

namespace Sys2Proof.Machine

/-! ## No event changes the schedule -/

/-- `LoadROM` has a next state exactly for an image that fits (R252, R253). -/
theorem State.loadRom_eq_next {s t : State} {bytes : List Byte} :
    s.loadRom bytes = .next t ↔
      bytes.length ≤ Config.romMax ∧ t = { s with mem := s.mem.writeBytes Config.romBase bytes } := by
  by_cases hfit : bytes.length ≤ Config.romMax
  · simp [State.loadRom, Event.wellFormed, hfit, eq_comm]
  · simp [State.loadRom, Event.wellFormed, hfit]

theorem State.cycle_schedule {s t : State} (h : s.cycle = .next t) : t.schedule = s.schedule := by
  obtain ⟨-, hc⟩ | ⟨-, -, hc⟩ | ⟨-, -, -, hc⟩ | ⟨i, -, -, -, hc⟩ := s.cycle_eq <;> rw [hc] at h
  case inr.inr.inr =>
    obtain ⟨-, hsched, -⟩ := exec_frame i s.fetched t h
    exact hsched
  all_goals
    injection h with h
    subst h
    rfl

theorem State.event_schedule {s t : State} {e : Event} (h : s.event e = .next t) :
    t.schedule = s.schedule := by
  cases e with
  | cycle => exact State.cycle_schedule h
  | loadRom bytes =>
    obtain ⟨-, rfl⟩ := State.loadRom_eq_next.mp h
    rfl
  | reset | setKeys | ackRedraw | timerTick =>
    injection h with h
    subst h
    rfl

/-! ## Runs of several steps -/

/-- A run of `n + 1` steps is one step and a run of `n`. -/
theorem steps_succ_eq_next {n : Nat} {s t : State} :
    steps (n + 1) s = .next t ↔ ∃ u, step s = .next u ∧ steps n u = .next t := by
  rw [steps]
  cases step s <;> simp

/-- A step takes its event off the schedule and leaves the rest of it alone. -/
theorem schedule_of_step_eq_next {s u : State} {e : Event} {c : Schedule}
    (hnext : s.schedule.next = some (e, c)) (h : step s = .next u) : u.schedule = c := by
  rw [step_of_next hnext] at h
  exact State.event_schedule h

/-- As many steps as events are listed use up the list, and what comes later is still to come. -/
theorem schedule_of_steps_length {es : List Event} {l : Later} {s t : State}
    (hs : s.schedule = ⟨es, l⟩) (h : steps es.length s = .next t) : t.schedule = ⟨[], l⟩ := by
  induction es generalizing s with
  | nil =>
    injection h with h
    exact h ▸ hs
  | cons e rest ih =>
    obtain ⟨u, hstep, hrun⟩ := steps_succ_eq_next.mp h
    exact ih (schedule_of_step_eq_next (by rw [hs, Schedule.next_cons]) hstep) hrun

/-! ## The obligations -/

/-- Settles O53: the first of the recurring events is issued and they are listed again after it; the
rest of the list is then used up one event a step. -/
theorem recurringEventsRecur : Obligations.RecurringEventsRecur := by
  refine ⟨fun s t e h => State.event_schedule h, fun s t e rest hs h => ?_⟩
  obtain ⟨u, hstep, hrun⟩ := steps_succ_eq_next.mp h
  have hu : u.schedule = ⟨rest, .again e rest⟩ :=
    schedule_of_step_eq_next (by rw [hs, Schedule.next_again]) hstep
  rw [schedule_of_steps_length hu hrun, hs]

/-- Settles O7, form by form of the schedule. -/
theorem stepIssuesTheNextEvent : Obligations.StepIssuesTheNextEvent := by
  refine ⟨fun s e rest l hs => ?listed, fun s e rest hs => ?again, fun s k hs => ?free,
    fun s hs => ?stop⟩
  case listed => exact step_of_next (by rw [hs, Schedule.next_cons])
  case again => exact step_of_next (by rw [hs, Schedule.next_again])
  case free => exact step_of_next (by rw [hs, Schedule.next_free])
  case stop => exact step_of_stop (by rw [hs, Schedule.next_stop])

/-- Settles O17, from the laws of memory. -/
theorem memoryReadAfterWrite : Obligations.MemoryReadAfterWrite :=
  fun m a b hwf ha => ⟨m.wf_write hwf a b, m.write_font a b, m.read_write hwf ha b⟩

end Sys2Proof.Machine

/-! PROOFS. What a cycle and a handler can do to the state: the frame of R35, the invariants of R41, and
the elements no cycle reads (10_state.md). -/

namespace Sys2Proof.Machine

/-! ## What a cycle can do -/

theorem State.nextInstr_eq_some {s : State} {i : Instr} :
    s.nextInstr = some i ↔ s.fault = .none ∧ s.fetchCause = .none ∧ decodeWord s.fetchWord = some i := by
  unfold State.nextInstr
  split <;> simp_all

/-- A cycle runs the handler of `nextInstr`, or it changes FAULT and OPCODE at most (R120, R220). -/
theorem State.cycle_cases {s t : State} (h : s.cycle = .next t) :
    (∃ i, s.nextInstr = some i ∧ exec i s.fetched = .next t) ∨
    t = { s with opcode := t.opcode, fault := t.fault } := by
  obtain ⟨-, hc⟩ | ⟨-, -, hc⟩ | ⟨-, -, -, hc⟩ | ⟨i, hfault, hfetch, hdecode, hc⟩ := s.cycle_eq <;>
    rw [hc] at h
  case inr.inr.inr => exact .inl ⟨i, State.nextInstr_eq_some.mpr ⟨hfault, hfetch, hdecode⟩, h⟩
  case inr.inr.inl =>
    injection h with h
    rw [s.fetched.raise_of_pc s.pc _ rfl] at h
    subst h
    exact .inr rfl
  all_goals
    injection h with h
    subst h
    exact .inr rfl

/-! ## PC after a handler (R126, R140 to R143, R202, R220) -/

/-- A handler leaves PC advanced, skips, takes the advance back, or transfers control: to an address with
a byte added (R141 to R143; the byte is 0 but for Bnnn), or to the newest stack entry (R140). -/
theorem exec_pc_cases {i : Instr} {s t : State} (h : exec i s = .next t) :
    t.pc = s.pc ∨ t.pc = s.pc + 2 ∨ t.pc = s.pc - 2 ∨
    (∃ (nnn : Addr12) (b : Byte), t.pc = zextAddr nnn + zextByte b) ∨
    ∃ hsp : 0 < s.sp.val, t.pc = s.stack[s.sp.val - 1]'(by omega) := by
  have hskip (c : Bool) : (s.skipIf c).pc = s.pc ∨ (s.skipIf c).pc = s.pc + 2 := by
    cases c <;> simp
  cases i with
  | cls | ldVxKk | addVxKk | ldVxVy | orVxVy | andVxVy | xorVxVy | addVxVy | sub | shr | subn | shl
  | ldINnn | rnd | ldVxDt | ldDtVx | ldStVx | addIVx | ldFVx =>
    injection h with h
    subst h
    exact .inl rfl
  | seVxKk | sneVxKk | seVxVy | sneVxVy =>
    injection h with h
    subst h
    exact (hskip _).imp_right .inl
  | skp x | sknp x =>
    obtain ⟨-, hkey⟩ | ⟨-, hkey⟩ := s.keyPressed_eq (s.reg x) <;>
      simp only [exec, execSkp, execSknp, hkey] at h <;> injection h with h <;> subst h
    · exact .inr (.inr (.inl rfl))
    · exact (hskip _).imp_right .inl
  | jp nnn =>
    injection h with h
    subst h
    exact .inr (.inr (.inr (.inl ⟨nnn, 0, by simp [zextByte]⟩)))
  | jpV0 nnn =>
    injection h with h
    subst h
    exact .inr (.inr (.inr (.inl ⟨nnn, s.reg 0, rfl⟩)))
  | call nnn =>
    obtain ⟨-, hpush⟩ | ⟨u, -, hpush, -⟩ := s.push_eq s.pc <;>
      simp only [exec, execCall, hpush] at h <;> injection h with h <;> subst h
    · exact .inr (.inr (.inl rfl))
    · exact .inr (.inr (.inr (.inl ⟨nnn, 0, by simp [zextByte]⟩)))
  | ret =>
    obtain ⟨-, hpop⟩ | ⟨u, hsp, hpop, -⟩ := s.pop_eq <;>
      simp only [exec, execRet, hpop] at h <;> injection h with h <;> subst h
    · exact .inr (.inr (.inl rfl))
    · exact .inr (.inr (.inr (.inr ⟨hsp, rfl⟩)))
  | ldVxK =>
    obtain ⟨-, hkey⟩ | ⟨k, -, hkey, -⟩ := lowestKey_eq s.keys <;>
      simp only [exec, execLdVxK, hkey] at h <;> injection h with h <;> subst h
    · exact .inr (.inr (.inl rfl))
    · exact .inl rfl
  | drw | ldBVx | ldMemVx =>
    simp only [exec, execDrw, execLdBVx, execLdMemVx] at h
    split at h <;> injection h with h <;> subst h
    · exact .inl rfl
    · exact .inr (.inr (.inl rfl))
  | ldVxMem =>
    simp only [exec, execLdVxMem] at h
    split at h <;> injection h with h <;> subst h
    · rw [State.setRegsFrom_frame]
      exact .inl rfl
    · exact .inr (.inr (.inl rfl))

/-! ## The invariants of R41 -/

theorem liveEntryOk_iff {a : Word} :
    liveEntryOk a = true ↔ a.toNat % 2 = 0 ∧ 2 ≤ a.toNat ∧ a.toNat ≤ 4096 := by
  simp [liveEntryOk, and_assoc]

/-- Where fetch passes its checks, the advanced PC is a value a live stack entry may have: CALL pushes it
(R41, R142). -/
theorem State.liveEntryOk_fetched {s : State} (h : s.fetchCause = .none) :
    liveEntryOk s.fetched.pc = true := by
  rw [State.fetchCause_eq_none] at h
  rw [liveEntryOk_iff, State.fetched_pc, BitVec.toNat_add]
  simp only [BitVec.reduceToNat]
  omega

/-- The live stack entries are as R41 says. -/
def State.stackOk (s : State) : Prop :=
  ∀ k : Fin 16, k.val < s.sp.val → liveEntryOk (s.stack[k.val]) = true

section
variable {i : Instr} {s t : State}

/-- Fx33 and Fx55 write bytes; the other handlers leave memory alone. -/
theorem exec_mem_wf (hwf : s.mem.wf = true) (h : exec i s = .next t) : t.mem.wf = true := by
  obtain ⟨-, -, -, -, -, -, -, hmem, -⟩ := exec_frame i s t h
  obtain ⟨x, rfl⟩ | ⟨x, rfl⟩ | hmem := hmem
  case inr.inr => rwa [hmem]
  all_goals
    simp only [exec, execLdBVx, execLdMemVx] at h
    split at h <;> injection h with h <;> subst h
    · exact Memory.wf_writeBytes hwf _ _
    · exact hwf

/-- The largest PC is that of Bnnn: 4095 + 255 (R143). -/
theorem exec_pc_le (hpc : liveEntryOk s.pc = true) (hstack : s.stackOk) (h : exec i s = .next t) :
    t.pc.toNat ≤ 4350 := by
  obtain ⟨-, hlow, hhigh⟩ := liveEntryOk_iff.mp hpc
  obtain hp | hp | hp | ⟨nnn, b, hp⟩ | ⟨hsp, hp⟩ := exec_pc_cases h <;> rw [hp]
  · omega
  · rw [BitVec.toNat_add]
    simp only [BitVec.reduceToNat]
    omega
  · rw [BitVec.toNat_sub]
    simp only [BitVec.reduceToNat]
    omega
  · rw [BitVec.toNat_add, zextAddr_toNat, zextByte_toNat]
    omega
  · obtain ⟨-, -, hle⟩ := liveEntryOk_iff.mp (hstack ⟨s.sp.val - 1, by omega⟩ (Nat.sub_lt hsp Nat.one_pos))
    exact hle.trans (by decide)

/-- RET only shortens the stack, CALL pushes the advanced PC, and no other handler touches it. -/
theorem exec_stackOk (hpc : liveEntryOk s.pc = true) (hstack : s.stackOk) (h : exec i s = .next t) :
    t.stackOk := by
  obtain ⟨-, -, -, -, -, -, -, -, hframe, -⟩ := exec_frame i s t h
  obtain rfl | ⟨nnn, rfl⟩ | ⟨hsp, hst⟩ := hframe
  · obtain ⟨-, hpop⟩ | ⟨u, hlive, hpop, husp, hu⟩ := s.pop_eq <;>
      simp only [exec, execRet, hpop] at h <;> injection h with h <;> subst h
    · exact hstack
    · intro k hk
      simp only [State.setPc_sp, State.setPc_stack] at hk ⊢
      rw [hu]
      exact hstack k (by omega)
  · obtain ⟨-, hpush⟩ | ⟨u, -, hpush, husp, hust, -⟩ := s.push_eq s.pc <;>
      simp only [exec, execCall, hpush] at h <;> injection h with h <;> subst h
    · exact hstack
    · intro k hk
      simp only [State.setPc_sp, State.setPc_stack] at hk ⊢
      rw [hust k.val k.isLt]
      split
      · exact hpc
      · exact hstack k (by omega)
  · rw [State.stackOk, hsp, hst]
    exact hstack

theorem State.cycle_inv (hs : s.Inv) (h : s.cycle = .next t) : t.Inv := by
  obtain ⟨hmem, hpc, hstack⟩ := hs
  obtain ⟨i, hi, hexec⟩ | ht := State.cycle_cases h
  · obtain ⟨-, hfetch, -⟩ := State.nextInstr_eq_some.mp hi
    have hnext := State.liveEntryOk_fetched hfetch
    exact ⟨exec_mem_wf (s := s.fetched) hmem hexec, exec_pc_le hnext hstack hexec, exec_stackOk hnext hstack hexec⟩
  · rw [ht]
    exact ⟨hmem, hpc, hstack⟩

end

/-- After reset nothing is listed in memory, PC is 0x200 and no stack entry is live (R250). -/
theorem State.applyReset_inv (s : State) : s.applyReset.Inv where
  memory := Memory.wf_initial _
  pc := by rw [State.applyReset_pc]; decide
  stack := fun k hk => absurd hk (Nat.not_lt_zero k.val)

theorem State.event_inv {s t : State} {e : Event} (hs : s.Inv) (h : s.event e = .next t) : t.Inv := by
  cases e with
  | reset =>
    injection h with h
    exact h ▸ s.applyReset_inv
  | loadRom bytes =>
    obtain ⟨-, rfl⟩ := State.loadRom_eq_next.mp h
    exact ⟨Memory.wf_writeBytes hs.memory _ _, hs.pc, hs.stack⟩
  | setKeys | ackRedraw | timerTick =>
    injection h with h
    subst h
    exact ⟨hs.memory, hs.pc, hs.stack⟩
  | cycle => exact State.cycle_inv hs h

/-! ## The elements no cycle reads: ST, REDRAW and OPCODE (R29, R30, R31) -/

/-- The state with other values of ST, REDRAW and OPCODE. -/
def State.setUnread (s : State) (st : Byte) (redraw : Bool) (opcode : Word) : State :=
  { s with st := st, redraw := redraw, opcode := opcode }

section
variable (s : State) (a : Byte) (r : Bool) (o : Word)

@[simp] theorem State.setUnread_pc : (s.setUnread a r o).pc = s.pc := rfl
@[simp] theorem State.setUnread_keys : (s.setUnread a r o).keys = s.keys := rfl
@[simp] theorem State.setUnread_fault : (s.setUnread a r o).fault = s.fault := rfl
@[simp] theorem State.reg_setUnread (x : Reg) : (s.setUnread a r o).reg x = s.reg x := rfl
@[simp] theorem State.spanFits_setUnread (n : Nat) :
    (s.setUnread a r o).spanFits n = s.spanFits n := rfl
@[simp] theorem State.keyPressed_setUnread (k : Byte) :
    (s.setUnread a r o).keyPressed k = s.keyPressed k := rfl
@[simp] theorem State.fetchCause_setUnread : (s.setUnread a r o).fetchCause = s.fetchCause := rfl
@[simp] theorem State.fetchBytes_setUnread : (s.setUnread a r o).fetchBytes = s.fetchBytes := rfl

theorem State.fetched_setUnread :
    (s.setUnread a r o).fetched = s.fetched.setUnread a r s.fetchWord := rfl

theorem State.skipIf_setUnread (c : Bool) :
    (s.setUnread a r o).skipIf c = (s.skipIf c).setUnread a r o := by
  cases c <;> rfl

theorem State.push_setUnread (w : Word) :
    (s.setUnread a r o).push w = (s.push w).map (·.setUnread a r o) := by
  by_cases h : s.sp.val < 16 <;> simp [State.push, State.setUnread, h]

theorem State.pop_setUnread :
    (s.setUnread a r o).pop = s.pop.map fun p => (p.1, p.2.setUnread a r o) := by
  by_cases h : 0 < s.sp.val <;> simp [State.pop, State.setUnread, h]

theorem State.setRegsFrom_setUnread (k : Nat) (l : List Byte) :
    (s.setUnread a r o).setRegsFrom k l = (s.setRegsFrom k l).setUnread a r o := by
  induction l generalizing s k with
  | nil => rfl
  | cons b rest ih => exact ih (s.setReg (BitVec.ofNat 4 k) b) (k + 1)

end

/-- A handler run with other values of ST, REDRAW and OPCODE ends as it did, but for those. -/
theorem exec_setUnread {i : Instr} {s t : State} (a : Byte) (r : Bool) (o : Word)
    (h : exec i s = .next t) : ∃ a' r', exec i (s.setUnread a r o) = .next (t.setUnread a' r' o) := by
  cases i with
  | cls | jp | ldVxKk | addVxKk | ldVxVy | orVxVy | andVxVy | xorVxVy | addVxVy | sub | shr | subn | shl
  | ldINnn | jpV0 | rnd | ldVxDt | ldDtVx | ldStVx | addIVx | ldFVx =>
    injection h with h
    subst h
    exact ⟨_, _, rfl⟩
  | seVxKk | sneVxKk | seVxVy | sneVxVy =>
    injection h with h
    subst h
    exact ⟨a, r, congrArg _ (s.skipIf_setUnread a r o _)⟩
  | skp x | sknp x =>
    obtain ⟨-, hkey⟩ | ⟨-, hkey⟩ := s.keyPressed_eq (s.reg x) <;>
      simp only [exec, execSkp, execSknp, State.reg_setUnread, State.keyPressed_setUnread, hkey] at h ⊢ <;>
      injection h with h <;> subst h
    · exact ⟨a, r, rfl⟩
    · exact ⟨a, r, congrArg _ (s.skipIf_setUnread a r o _)⟩
  | call nnn =>
    obtain ⟨-, hpush⟩ | ⟨u, -, hpush, -⟩ := s.push_eq s.pc <;>
      simp only [exec, execCall, State.setUnread_pc, State.push_setUnread, hpush] at h ⊢ <;>
      injection h with h <;> subst h <;> exact ⟨a, r, rfl⟩
  | ret =>
    obtain ⟨-, hpop⟩ | ⟨u, hsp, hpop, -⟩ := s.pop_eq <;>
      simp only [exec, execRet, State.pop_setUnread, hpop] at h ⊢ <;>
      injection h with h <;> subst h <;> exact ⟨a, r, rfl⟩
  | ldVxK =>
    obtain ⟨-, hkey⟩ | ⟨k, -, hkey, -⟩ := lowestKey_eq s.keys <;>
      simp only [exec, execLdVxK, State.setUnread_keys, hkey] at h ⊢ <;>
      injection h with h <;> subst h <;> exact ⟨a, r, rfl⟩
  | drw | ldBVx | ldMemVx =>
    simp only [exec, execDrw, execLdBVx, execLdMemVx, State.spanFits_setUnread] at h ⊢
    split at h <;> injection h with h <;> subst h
    · exact ⟨_, _, if_pos ‹_›⟩
    · exact ⟨_, _, if_neg ‹_›⟩
  | ldVxMem =>
    simp only [exec, execLdVxMem, State.spanFits_setUnread] at h ⊢
    split at h <;> injection h with h <;> subst h
    · exact ⟨a, r, (if_pos ‹_›).trans (congrArg _ (s.setRegsFrom_setUnread a r o _ _))⟩
    · exact ⟨a, r, if_neg ‹_›⟩

theorem State.dispatch_setUnread {s t : State} (a : Byte) (r : Bool) (o : Word)
    (h : s.dispatch = .next t) :
    ∃ a' r', (s.setUnread a r o).dispatch = .next (t.setUnread a' r' s.fetchWord) := by
  unfold State.dispatch at h ⊢
  rw [State.fetchBytes_setUnread, State.fetched_setUnread]
  rcases hd : decode s.fetchBytes with e | ⟨i, rest⟩ <;> rw [hd] at h
  · injection h with h
    subst h
    exact ⟨a, r, rfl⟩
  · exact exec_setUnread a r s.fetchWord h

/-- A cycle run with other values of ST, REDRAW and OPCODE ends as it did, but for those: halt gating and
fetch make the same choice. -/
theorem State.cycle_setUnread {s t : State} (a : Byte) (r : Bool) (o : Word) (h : s.cycle = .next t) :
    ∃ a' r' o', (s.setUnread a r o).cycle = .next (t.setUnread a' r' o') := by
  unfold State.cycle at h ⊢
  rw [State.setUnread_fault, State.fetchCause_setUnread]
  split at h
  case isTrue hhalted =>
    injection h with h
    subst h
    exact ⟨a, r, o, if_pos hhalted⟩
  rw [if_neg ‹_›]
  split at h
  case isTrue hfetch =>
    injection h with h
    subst h
    exact ⟨a, r, o, if_pos hfetch⟩
  rw [if_neg ‹_›]
  obtain ⟨a', r', hdispatch⟩ := State.dispatch_setUnread a r o h
  exact ⟨a', r', s.fetchWord, hdispatch⟩

/-! ## VF -/

/-- A block of register writes from V0 that ends before V15 leaves VF alone (R185). -/
theorem State.reg_vf_setRegsFrom_zero (s : State) {l : List Byte} (hl : l.length ≤ 15) :
    (s.setRegsFrom 0 l).reg vf = s.reg vf := by
  have hvf : ¬(0 ≤ vf.toNat ∧ vf.toNat < 0 + l.length) := by
    have : vf.toNat = 15 := rfl
    omega
  rw [State.reg_setRegsFrom s 0 l (by omega) vf, dif_neg hvf]

/-- A handler with no flag to write and no destination 15 leaves VF alone (R21, R22). -/
theorem exec_reg_vf {i : Instr} {s t : State} (hvf : mayWriteVf i = false) (h : exec i s = .next t) :
    t.reg vf = s.reg vf := by
  obtain ⟨-, -, -, -, -, -, -, -, -, -, -, hv⟩ := exec_frame i s t h
  obtain hwrites | hv := hv
  case inr => exact State.reg_congr hv vf
  cases i with
  | addVxVy | sub | shr | subn | shl | drw => cases hvf
  | ldVxKk x | addVxKk x | ldVxVy x | orVxVy x | andVxVy x | xorVxVy x | rnd x | ldVxDt x =>
    have hx : x ≠ vf := beq_eq_false_iff_ne.mp hvf
    injection h with h
    subst h
    exact State.reg_setReg_ne _ _ hx.symm
  | ldVxK x =>
    have hx : x ≠ vf := beq_eq_false_iff_ne.mp hvf
    obtain ⟨-, hkey⟩ | ⟨k, -, hkey, -⟩ := lowestKey_eq s.keys <;>
      simp only [exec, execLdVxK, hkey] at h <;> injection h with h <;> subst h
    · rfl
    · exact State.reg_setReg_ne _ _ hx.symm
  | ldVxMem x =>
    have hx : x ≠ vf := beq_eq_false_iff_ne.mp hvf
    have hlen : x.toNat + 1 ≤ 15 := by
      have : x.toNat ≠ 15 := fun h15 => hx (BitVec.eq_of_toNat_eq h15)
      omega
    simp only [exec, execLdVxMem] at h
    split at h <;> injection h with h <;> subst h
    · exact s.reg_vf_setRegsFrom_zero (by rwa [Memory.length_readBytes])
    · rfl
  | _ => cases hwrites

/-! ## The obligations -/

/-- Settles O15: the next event keeps the invariant, and taking it off the schedule touches nothing the
invariant speaks of. -/
theorem everyStepKeepsTheInvariant : Obligations.EveryStepKeepsTheInvariant := by
  intro s t hs h
  rcases hnext : s.schedule.next with _ | ⟨e, c⟩
  · rw [step_of_stop hnext] at h
    injection h with h
    exact h ▸ hs
  · rw [step_of_next hnext] at h
    exact State.event_inv (s := { s with schedule := c }) ⟨hs.memory, hs.pc, hs.stack⟩ h

/-- Settles O16: the state after reset is what `Reset` makes of itself. -/
theorem resetMeetsTheInvariant : Obligations.ResetMeetsTheInvariant :=
  State.reset.applyReset_inv

/-- Settles O13: a halted core's cycle changes nothing, and of the other events only `Reset` writes
FAULT. -/
theorem faultIsSticky : Obligations.FaultIsSticky := by
  intro s t e hfault h
  cases e with
  | reset =>
    injection h with h
    subst h
    exact ⟨fun _ => rfl, fun hne => absurd rfl hne⟩
  | loadRom bytes =>
    obtain ⟨-, rfl⟩ := State.loadRom_eq_next.mp h
    exact ⟨nofun, fun _ => rfl⟩
  | setKeys | ackRedraw | timerTick =>
    injection h with h
    subst h
    exact ⟨nofun, fun _ => rfl⟩
  | cycle =>
    obtain rfl : s = t := by
      rw [State.event, State.cycle, if_pos hfault] at h
      injection h
    exact ⟨nofun, fun _ => rfl⟩

/-- Settles O19: the events of the environment write their own elements; a cycle writes what its handler
writes, and without a handler only FAULT and OPCODE. -/
theorem whoWritesWhat : Obligations.WhoWritesWhat := by
  intro s t
  refine ⟨fun bytes h => ?_, fun k h => ?_, fun h => ?_, fun h => ?_, fun h => ?cycle⟩
  case cycle =>
    obtain ⟨i, hi, hexec⟩ | ht := State.cycle_cases h
    · obtain ⟨hkeys, -, -, hscreen, -, hdt, hst, hmem, hstack, -⟩ := exec_frame i s.fetched t hexec
      simp only [hi, Option.some.injEq]
      exact ⟨hkeys, fun hne => (or_assoc.mpr hstack).resolve_right (not_and_or.mpr hne),
        hdt.resolve_right, hst.resolve_right,
        fun hne => ((or_assoc.mpr hscreen).resolve_right (not_and_or.mpr hne)).symm,
        fun hne => (or_assoc.mpr hmem).resolve_right hne⟩
    · rw [ht]
      simp
  · obtain ⟨-, rfl⟩ := State.loadRom_eq_next.mp h
    rfl
  all_goals
    injection h with h
    subst h
    rfl

/-- Settles O21: the frame of the handlers, and VF's own lemma. -/
theorem registerWriters : Obligations.RegisterWriters := by
  intro i s t h
  obtain ⟨-, -, -, -, -, -, -, -, -, -, hi, hv⟩ := exec_frame i s t h
  exact ⟨fun hnot => hv.resolve_left (by simp [hnot]), fun hnot => exec_reg_vf hnot h, hi.resolve_left⟩

/-- Settles O22, by running the cycle again from the state with the other values. -/
theorem soundTimerRedrawAndOpcodeAreNeverRead : Obligations.SoundTimerRedrawAndOpcodeAreNeverRead := by
  intro s t st' redraw' opcode' h
  obtain ⟨a, r, o, hcycle⟩ := State.cycle_setUnread st' redraw' opcode' h
  exact ⟨t.setUnread a r o, hcycle, rfl⟩

end Sys2Proof.Machine

/-! PROOFS. Memory as data and what a store leaves to be fetched (20_memory.md R60, R63, R64, R73;
10_state.md R36). -/

namespace Sys2Proof.Machine

/-! ## A canonical list is determined by its lookups -/

section
variable {m : Memory} {lo lo' a : Nat} {b : Byte} {l l' : List Host.Cell}

theorem cellsOk_cons :
    cellsOk m lo ((a, b) :: l) = true ↔
      lo ≤ a ∧ a < Config.memSize ∧ b ≠ m.background a ∧ cellsOk m (a + 1) l = true := by
  simp [cellsOk, and_assoc]

theorem lookupCell_cons_self : lookupCell ((a, b) :: l) a = some b :=
  if_pos rfl

theorem lookupCell_cons_ne {c : Nat} (h : c ≠ a) : lookupCell ((a, b) :: l) c = lookupCell l c :=
  if_neg h

/-- A cell listed in a canonical list is at or above the bound, inside memory, and not as `Reset` leaves
it. -/
theorem cellsOk_lookupCell (hl : cellsOk m lo l = true) (h : lookupCell l a = some b) :
    lo ≤ a ∧ a < Config.memSize ∧ b ≠ m.background a := by
  induction l generalizing lo with
  | nil => cases h
  | cons cell rest ih =>
    obtain ⟨k, d⟩ := cell
    obtain ⟨hlo, hk, hd, hrest⟩ := cellsOk_cons.mp hl
    by_cases hak : a = k
    · subst hak
      rw [lookupCell_cons_self, Option.some.injEq] at h
      exact ⟨hlo, hk, h ▸ hd⟩
    · rw [lookupCell_cons_ne hak] at h
      obtain ⟨hka, hab⟩ := ih hrest h
      exact ⟨by omega, hab⟩

/-- The first cells are at one address, because each list looks up its own first address and lists
nothing below it. -/
theorem cellsOk_ext (hl : cellsOk m lo l = true) (hl' : cellsOk m lo' l' = true)
    (h : ∀ a, lookupCell l a = lookupCell l' a) : l = l' := by
  induction l generalizing lo lo' l' with
  | nil =>
    cases l' with
    | nil => rfl
    | cons cell' rest' => cases (h cell'.1).trans lookupCell_cons_self
  | cons cell rest ih =>
    obtain ⟨k, b⟩ := cell
    cases l' with
    | nil => cases lookupCell_cons_self.symm.trans (h k)
    | cons cell' rest' =>
      obtain ⟨k', b'⟩ := cell'
      obtain ⟨-, -, -, hrest⟩ := cellsOk_cons.mp hl
      obtain ⟨-, -, -, hrest'⟩ := cellsOk_cons.mp hl'
      obtain rfl : k = k' := by
        by_contra hne
        have hk := (h k).symm.trans lookupCell_cons_self
        have hk' := (h k').trans lookupCell_cons_self
        rw [lookupCell_cons_ne hne] at hk
        rw [lookupCell_cons_ne (Ne.symm hne)] at hk'
        obtain ⟨hlt, -⟩ := cellsOk_lookupCell hrest' hk
        obtain ⟨hlt', -⟩ := cellsOk_lookupCell hrest hk'
        omega
      obtain rfl : b = b' := by
        have hb := h k
        rwa [lookupCell_cons_self, lookupCell_cons_self, Option.some.injEq] at hb
      rw [ih hrest hrest' fun a => ?_]
      by_cases ha : a = k
      · rw [lookupCell_below hrest (by omega), lookupCell_below hrest' (by omega)]
      · rw [← lookupCell_cons_ne ha, h a, lookupCell_cons_ne ha]

end

/-! ## A canonical memory lists what its reads say -/

/-- A canonical memory lists exactly the addresses below 4096 that do not read as `Reset` leaves them,
each with the byte it reads as. -/
theorem Memory.lookupCell_eq {m : Memory} (h : m.wf = true) (a : Nat) :
    lookupCell m.cells a =
      if a < Config.memSize ∧ m.read a ≠ m.background a then some (m.read a) else none := by
  rcases hcell : lookupCell m.cells a with _ | b
  · have hread : m.read a = m.background a := by rw [Memory.read, hcell]
    exact (if_neg fun hne => hne.2 hread).symm
  · have hread : m.read a = b := by rw [Memory.read, hcell]
    obtain ⟨-, ha, hb⟩ := cellsOk_lookupCell h hcell
    rw [hread, if_pos ⟨ha, hb⟩]

/-- Canonical memories with one FONT that read the same list the same cells. -/
theorem Memory.eq_of_read {m m' : Memory} (h : m.wf = true) (h' : m'.wf = true) (hfont : m.font = m'.font)
    (hread : ∀ a, a < Config.memSize → m.read a = m'.read a) : m = m' := by
  have hbg (a : Nat) : m'.background a = m.background a := by simp [Memory.background, hfont]
  have hlookup (a : Nat) : lookupCell m.cells a = lookupCell m'.cells a := by
    rw [Memory.lookupCell_eq h, Memory.lookupCell_eq h', hbg]
    by_cases ha : a < Config.memSize
    · rw [hread a ha]
    · rw [if_neg fun hne => ha hne.1, if_neg fun hne => ha hne.1]
  have hcells : m.cells = m'.cells :=
    cellsOk_ext h ((cellsOk_font hfont 0 m'.cells).trans h') hlookup
  obtain ⟨font, cells⟩ := m
  obtain ⟨font', cells'⟩ := m'
  subst hfont hcells
  rfl

/-! ## What Fx55 leaves in memory -/

/-- Fx55 with its span inside memory writes the registers and nothing else (R184). -/
theorem exec_ldMemVx_of_fits {x : Reg} {s : State} (hfits : s.i.toNat + x.toNat ≤ 4095) :
    exec (.ldMemVx x) s = .next { s with mem := s.mem.writeBytes s.i.toNat (s.regsUpTo x) } :=
  if_pos ((s.spanFits_iff _).mpr hfits)

/-- After Fx55 the byte at I + k is `V[k]`, for every register stored (R184). -/
theorem read_of_exec_ldMemVx {x : Reg} {s t : State} (hwf : s.mem.wf = true)
    (hfits : s.i.toNat + x.toNat ≤ 4095) (h : exec (.ldMemVx x) s = .next t) {k : Reg}
    (hk : k.toNat ≤ x.toNat) : t.mem.read (s.i.toNat + k.toNat) = s.reg k := by
  rw [exec_ldMemVx_of_fits hfits] at h
  injection h with h
  subst h
  have hlen := s.length_regsUpTo x
  have hspan : s.i.toNat + (s.regsUpTo x).length ≤ Config.memSize := by
    rw [hlen]
    exact Nat.succ_le_succ hfits
  rw [Memory.read_writeBytes hwf hspan, dif_pos (by omega), State.getElem_regsUpTo, Nat.add_sub_cancel_left,
    BitVec.ofNat_toNat, BitVec.setWidth_eq]

theorem State.fetchWord_toNat (s : State) :
    s.fetchWord.toNat = 256 * (s.mem.read s.pc.toNat).toNat + (s.mem.read (s.pc.toNat + 1)).toNat :=
  wordOfBytes_toNat _ _

/-! ## The obligations -/

/-- Settles O18: what a canonical memory lists is determined by its reads. -/
theorem equalMemoriesAreEqualData : Obligations.EqualMemoriesAreEqualData :=
  fun _ _ h h' hfont hread => Memory.eq_of_read h h' hfont hread

/-- Settles O41: the fetch reads the bytes of `V[k]` and `V[k + 1]`, and `k + 1` does not wrap because
it is at most `x`. -/
theorem fetchSeesTheStoredWord : Obligations.FetchSeesTheStoredWord := by
  intro x k s t t' hwf hfits h hk hmem hpc
  have hsucc : (k + 1).toNat = k.toNat + 1 := BitVec.toNat_add_of_lt (hk.trans_lt x.isLt)
  have hhigh := read_of_exec_ldMemVx hwf hfits h (k := k) (by omega)
  have hlow := read_of_exec_ldMemVx hwf hfits h (k := k + 1) (by omega)
  rw [hsucc, ← Nat.add_assoc] at hlow
  rw [State.fetchWord_toNat, hmem, hpc, hhigh, hlow]

end Sys2Proof.Machine

/-! PROOFS. The encoding: the decoder, the encoder and the opcode map agree (30_encoding.md R90 to R101,
40_fetch_dispatch.md R123). -/

namespace Sys2Proof

/-! ## Decoding what was encoded (R92 to R97) -/

/-- The fields of an encoding are the operands, and its literal nibbles select the instruction's case of
the decoder. -/
@[simp] theorem decodeWord_encode (i : Instr) : decodeWord (encode i) = some i := by
  cases i with
  | cls | ret => rfl
  | jp | call | ldINnn | jpV0 | seVxKk | sneVxKk | ldVxKk | addVxKk | rnd | seVxVy | sneVxVy | drw =>
    simp [encode, decodeWord]
  | ldVxVy | orVxVy | andVxVy | xorVxVy | addVxVy | sub | shr | subn | shl =>
    simp [encode, decodeWord, decodeFamily8]
  | skp | sknp => simp [encode, decodeWord, decodeFamilyE]
  | ldVxDt | ldVxK | ldDtVx | ldStVx | addIVx | ldFVx | ldBVx | ldMemVx | ldVxMem =>
    simp [encode, decodeWord, decodeFamilyF]

/-- Decoding a byte string decodes the word of its first two bytes, high byte first (R63, R90). -/
theorem decode_bytesOfWord_append {w : Word} {i : Instr} (h : decodeWord w = some i) (rest : List Byte) :
    decode (bytesOfWord w ++ rest) = .ok (i, rest) := by
  simp [bytesOfWord, decode, h]

/-! ## Encoding what was decoded -/

section
variable {w : Word} {f : BitVec 4} {i : Instr}

theorem formatNnn_of_family (hf : (opFamily w).toNat = f.toNat) : formatNnn f (opNnn w) = w :=
  BitVec.eq_of_toNat_eq hf ▸ formatNnn_fields w

theorem formatXkk_of_family (hf : (opFamily w).toNat = f.toNat) :
    formatXkk f (opX w) (opKk w) = w :=
  BitVec.eq_of_toNat_eq hf ▸ formatXkk_fields w

theorem formatXyn_of_family (hf : (opFamily w).toNat = f.toNat) :
    formatXyn f (opX w) (opY w) (opN w) = w :=
  BitVec.eq_of_toNat_eq hf ▸ formatXyn_fields w

theorem formatXkk_of_family_lowByte {kk : Byte} (hf : (opFamily w).toNat = f.toNat)
    (hkk : (opKk w).toNat = kk.toNat) : formatXkk f (opX w) kk = w :=
  BitVec.eq_of_toNat_eq hkk ▸ formatXkk_of_family hf

theorem formatXyn_of_family_lowNibble {n : Nibble} (hf : (opFamily w).toNat = f.toNat)
    (hn : (opN w).toNat = n.toNat) : formatXyn f (opX w) (opY w) n = w :=
  BitVec.eq_of_toNat_eq hn ▸ formatXyn_of_family hf

theorem encode_of_decodeFamily0 (h : decodeFamily0 w = some i) : encode i = w := by
  unfold decodeFamily0 at h
  split_ifs at h with hcls hret
  · cases h
    exact hcls.symm
  · cases h
    exact hret.symm

theorem encode_of_decodeFamily8 (hf : (opFamily w).toNat = 0x8) (h : decodeFamily8 w = some i) :
    encode i = w := by
  unfold decodeFamily8 at h
  split at h <;> cases h <;> exact formatXyn_of_family_lowNibble hf ‹_›

theorem encode_of_decodeFamilyE (hf : (opFamily w).toNat = 0xE) (h : decodeFamilyE w = some i) :
    encode i = w := by
  unfold decodeFamilyE at h
  split at h <;> cases h <;> exact formatXkk_of_family_lowByte hf ‹_›

theorem encode_of_decodeFamilyF (hf : (opFamily w).toNat = 0xF) (h : decodeFamilyF w = some i) :
    encode i = w := by
  unfold decodeFamilyF at h
  split at h <;> cases h <;> exact formatXkk_of_family_lowByte hf ‹_›

/-- The word of the decoded instruction is put together from the fields the decoder read. -/
theorem encode_of_decodeWord (h : decodeWord w = some i) : encode i = w := by
  unfold decodeWord at h
  split at h
  case h_1 => exact encode_of_decodeFamily0 h
  case h_9 hf => exact encode_of_decodeFamily8 hf h
  case h_15 hf => exact encode_of_decodeFamilyE hf h
  case h_16 hf => exact encode_of_decodeFamilyF hf h
  case h_6 hf | h_10 hf =>
    split_ifs at h with hn
    cases h
    exact formatXyn_of_family_lowNibble hf (congrArg BitVec.toNat hn)
  case h_2 hf | h_3 hf | h_11 hf | h_12 hf =>
    cases h
    exact formatNnn_of_family hf
  case h_4 hf | h_5 hf | h_7 hf | h_8 hf | h_13 hf =>
    cases h
    exact formatXkk_of_family hf
  case h_14 hf =>
    cases h
    exact formatXyn_of_family hf
  case h_17 => cases h

end

/-! ## The illegal words of each family (R101) -/

section
variable {w : Word}

theorem decodeFamily0_eq_none_iff : decodeFamily0 w = none ↔ w ≠ 0x00E0 ∧ w ≠ 0x00EE := by
  unfold decodeFamily0
  split_ifs <;> simp [*]

theorem decodeFamily8_eq_none_iff :
    decodeFamily8 w = none ↔ opN w = 0x8 ∨ opN w = 0x9 ∨ opN w = 0xA ∨ opN w = 0xB ∨ opN w = 0xC ∨
      opN w = 0xD ∨ opN w = 0xF := by
  unfold decodeFamily8
  split
  case h_10 =>
    simp only [imp_false, true_iff] at *
    bv_omega
  all_goals simp [← BitVec.toNat_inj, *]

theorem decodeFamilyE_eq_none_iff : decodeFamilyE w = none ↔ opKk w ≠ 0x9E ∧ opKk w ≠ 0xA1 := by
  unfold decodeFamilyE
  split
  case h_3 =>
    simp only [imp_false, true_iff] at *
    bv_omega
  all_goals simp [← BitVec.toNat_inj, *]

theorem decodeFamilyF_eq_none_iff :
    decodeFamilyF w = none ↔ opKk w ≠ 0x07 ∧ opKk w ≠ 0x0A ∧ opKk w ≠ 0x15 ∧ opKk w ≠ 0x18 ∧
      opKk w ≠ 0x1E ∧ opKk w ≠ 0x29 ∧ opKk w ≠ 0x33 ∧ opKk w ≠ 0x55 ∧ opKk w ≠ 0x65 := by
  unfold decodeFamilyF
  split
  case h_10 =>
    simp only [imp_false, true_iff] at *
    bv_omega
  all_goals simp [← BitVec.toNat_inj, *]

end

/-! ## The word of an instruction is on its row (R99) -/

theorem encode_and_mask_row : ∀ i : Instr, encode i &&& i.row.mask = i.row.pattern
  | .cls => Laws.RowMatches.cls
  | .ret => Laws.RowMatches.ret
  | .jp nnn => Laws.RowMatches.jp nnn
  | .call nnn => Laws.RowMatches.call nnn
  | .seVxKk x kk => Laws.RowMatches.seVxKk x kk
  | .sneVxKk x kk => Laws.RowMatches.sneVxKk x kk
  | .seVxVy x y => Laws.RowMatches.seVxVy x y
  | .ldVxKk x kk => Laws.RowMatches.ldVxKk x kk
  | .addVxKk x kk => Laws.RowMatches.addVxKk x kk
  | .ldVxVy x y => Laws.RowMatches.ldVxVy x y
  | .orVxVy x y => Laws.RowMatches.orVxVy x y
  | .andVxVy x y => Laws.RowMatches.andVxVy x y
  | .xorVxVy x y => Laws.RowMatches.xorVxVy x y
  | .addVxVy x y => Laws.RowMatches.addVxVy x y
  | .sub x y => Laws.RowMatches.sub x y
  | .shr x y => Laws.RowMatches.shr x y
  | .subn x y => Laws.RowMatches.subn x y
  | .shl x y => Laws.RowMatches.shl x y
  | .sneVxVy x y => Laws.RowMatches.sneVxVy x y
  | .ldINnn nnn => Laws.RowMatches.ldINnn nnn
  | .jpV0 nnn => Laws.RowMatches.jpV0 nnn
  | .rnd x kk => Laws.RowMatches.rnd x kk
  | .drw x y n => Laws.RowMatches.drw x y n
  | .skp x => Laws.RowMatches.skp x
  | .sknp x => Laws.RowMatches.sknp x
  | .ldVxDt x => Laws.RowMatches.ldVxDt x
  | .ldVxK x => Laws.RowMatches.ldVxK x
  | .ldDtVx x => Laws.RowMatches.ldDtVx x
  | .ldStVx x => Laws.RowMatches.ldStVx x
  | .addIVx x => Laws.RowMatches.addIVx x
  | .ldFVx x => Laws.RowMatches.ldFVx x
  | .ldBVx x => Laws.RowMatches.ldBVx x
  | .ldMemVx x => Laws.RowMatches.ldMemVx x
  | .ldVxMem x => Laws.RowMatches.ldVxMem x

theorem matchesWord_row_encode (i : Instr) : i.row.matchesWord (encode i) = true :=
  beq_iff_eq.mpr (encode_and_mask_row i)

theorem row_mem_opcodeTable (i : Instr) : i.row ∈ opcodeTable := by
  cases i <;> simp [Instr.row, opcodeTable, opcodeRowsLow, opcodeRowsMid, opcodeRowsHigh]

/-! ## A word on a row is the word of an instruction of that row (R99, R103) -/

section
variable {w mask pattern : Word} {f : BitVec 4}

/-- A field of which the mask keeps every bit has its value from the row's literal bits. -/
theorem field_toNat_of_match {start len : Nat} {field : BitVec len} (h : w &&& mask = pattern)
    (hmask : mask.extractLsb' start len = BitVec.allOnes len)
    (hfield : pattern.extractLsb' start len = field) :
    (w.extractLsb' start len).toNat = field.toNat := by
  rw [← hfield, ← h, BitVec.extractLsb'_and, hmask, BitVec.and_allOnes]

theorem formatNnn_of_match (h : w &&& 0xF000#16 = pattern) (hf : opFamily pattern = f) :
    formatNnn f (opNnn w) = w :=
  formatNnn_of_family (field_toNat_of_match h rfl hf)

theorem formatXkk_of_match (h : w &&& 0xF000#16 = pattern) (hf : opFamily pattern = f) :
    formatXkk f (opX w) (opKk w) = w :=
  formatXkk_of_family (field_toNat_of_match h rfl hf)

theorem formatXyn_of_match (h : w &&& 0xF000#16 = pattern) (hf : opFamily pattern = f) :
    formatXyn f (opX w) (opY w) (opN w) = w :=
  formatXyn_of_family (field_toNat_of_match h rfl hf)

theorem formatXyn_of_match_lowNibble {n : Nibble} (h : w &&& 0xF00F#16 = pattern)
    (hf : opFamily pattern = f) (hn : opN pattern = n) : formatXyn f (opX w) (opY w) n = w :=
  formatXyn_of_family_lowNibble (field_toNat_of_match h rfl hf) (field_toNat_of_match h rfl hn)

theorem formatXkk_of_match_lowByte {kk : Byte} (h : w &&& 0xF0FF#16 = pattern)
    (hf : opFamily pattern = f) (hkk : opKk pattern = kk) : formatXkk f (opX w) kk = w :=
  formatXkk_of_family_lowByte (field_toNat_of_match h rfl hf) (field_toNat_of_match h rfl hkk)

theorem exists_encode_of_match_opcodeRowsLow :
    ∀ r ∈ opcodeRowsLow, w &&& r.mask = r.pattern → ∃ i : Instr, i.row = r ∧ encode i = w := by
  simp only [opcodeRowsLow, List.forall_mem_cons]
  exact ⟨fun h => ⟨.cls, rfl, h.symm.trans BitVec.and_allOnes⟩,
    fun h => ⟨.ret, rfl, h.symm.trans BitVec.and_allOnes⟩,
    fun h => ⟨.jp (opNnn w), rfl, formatNnn_of_match h rfl⟩,
    fun h => ⟨.call (opNnn w), rfl, formatNnn_of_match h rfl⟩,
    fun h => ⟨.seVxKk (opX w) (opKk w), rfl, formatXkk_of_match h rfl⟩,
    fun h => ⟨.sneVxKk (opX w) (opKk w), rfl, formatXkk_of_match h rfl⟩,
    fun h => ⟨.seVxVy (opX w) (opY w), rfl, formatXyn_of_match_lowNibble h rfl rfl⟩,
    fun h => ⟨.ldVxKk (opX w) (opKk w), rfl, formatXkk_of_match h rfl⟩,
    fun h => ⟨.addVxKk (opX w) (opKk w), rfl, formatXkk_of_match h rfl⟩,
    List.forall_mem_nil _⟩

theorem exists_encode_of_match_opcodeRowsMid :
    ∀ r ∈ opcodeRowsMid, w &&& r.mask = r.pattern → ∃ i : Instr, i.row = r ∧ encode i = w := by
  simp only [opcodeRowsMid, List.forall_mem_cons]
  exact ⟨fun h => ⟨.ldVxVy (opX w) (opY w), rfl, formatXyn_of_match_lowNibble h rfl rfl⟩,
    fun h => ⟨.orVxVy (opX w) (opY w), rfl, formatXyn_of_match_lowNibble h rfl rfl⟩,
    fun h => ⟨.andVxVy (opX w) (opY w), rfl, formatXyn_of_match_lowNibble h rfl rfl⟩,
    fun h => ⟨.xorVxVy (opX w) (opY w), rfl, formatXyn_of_match_lowNibble h rfl rfl⟩,
    fun h => ⟨.addVxVy (opX w) (opY w), rfl, formatXyn_of_match_lowNibble h rfl rfl⟩,
    fun h => ⟨.sub (opX w) (opY w), rfl, formatXyn_of_match_lowNibble h rfl rfl⟩,
    fun h => ⟨.shr (opX w) (opY w), rfl, formatXyn_of_match_lowNibble h rfl rfl⟩,
    fun h => ⟨.subn (opX w) (opY w), rfl, formatXyn_of_match_lowNibble h rfl rfl⟩,
    fun h => ⟨.shl (opX w) (opY w), rfl, formatXyn_of_match_lowNibble h rfl rfl⟩,
    fun h => ⟨.sneVxVy (opX w) (opY w), rfl, formatXyn_of_match_lowNibble h rfl rfl⟩,
    fun h => ⟨.ldINnn (opNnn w), rfl, formatNnn_of_match h rfl⟩,
    fun h => ⟨.jpV0 (opNnn w), rfl, formatNnn_of_match h rfl⟩,
    fun h => ⟨.rnd (opX w) (opKk w), rfl, formatXkk_of_match h rfl⟩,
    fun h => ⟨.drw (opX w) (opY w) (opN w), rfl, formatXyn_of_match h rfl⟩,
    List.forall_mem_nil _⟩

theorem exists_encode_of_match_opcodeRowsHigh :
    ∀ r ∈ opcodeRowsHigh, w &&& r.mask = r.pattern → ∃ i : Instr, i.row = r ∧ encode i = w := by
  simp only [opcodeRowsHigh, List.forall_mem_cons]
  exact ⟨fun h => ⟨.skp (opX w), rfl, formatXkk_of_match_lowByte h rfl rfl⟩,
    fun h => ⟨.sknp (opX w), rfl, formatXkk_of_match_lowByte h rfl rfl⟩,
    fun h => ⟨.ldVxDt (opX w), rfl, formatXkk_of_match_lowByte h rfl rfl⟩,
    fun h => ⟨.ldVxK (opX w), rfl, formatXkk_of_match_lowByte h rfl rfl⟩,
    fun h => ⟨.ldDtVx (opX w), rfl, formatXkk_of_match_lowByte h rfl rfl⟩,
    fun h => ⟨.ldStVx (opX w), rfl, formatXkk_of_match_lowByte h rfl rfl⟩,
    fun h => ⟨.addIVx (opX w), rfl, formatXkk_of_match_lowByte h rfl rfl⟩,
    fun h => ⟨.ldFVx (opX w), rfl, formatXkk_of_match_lowByte h rfl rfl⟩,
    fun h => ⟨.ldBVx (opX w), rfl, formatXkk_of_match_lowByte h rfl rfl⟩,
    fun h => ⟨.ldMemVx (opX w), rfl, formatXkk_of_match_lowByte h rfl rfl⟩,
    fun h => ⟨.ldVxMem (opX w), rfl, formatXkk_of_match_lowByte h rfl rfl⟩,
    List.forall_mem_nil _⟩

theorem exists_encode_of_matchesWord {r : Row} (hr : r ∈ opcodeTable) (h : r.matchesWord w = true) :
    ∃ i : Instr, i.row = r ∧ encode i = w := by
  have hmatch : w &&& r.mask = r.pattern := beq_iff_eq.mp h
  rw [opcodeTable, List.mem_append, List.mem_append] at hr
  obtain (hlow | hmid) | hhigh := hr
  · exact exists_encode_of_match_opcodeRowsLow r hlow hmatch
  · exact exists_encode_of_match_opcodeRowsMid r hmid hmatch
  · exact exists_encode_of_match_opcodeRowsHigh r hhigh hmatch

/-- A word on a row decodes to an instruction of that row; since decoding is a function, no word is on two
rows. -/
theorem decodeWord_of_matchesWord {r : Row} (hr : r ∈ opcodeTable) (h : r.matchesWord w = true) :
    ∃ i : Instr, decodeWord w = some i ∧ i.row = r := by
  obtain ⟨i, hrow, rfl⟩ := exists_encode_of_matchesWord hr h
  exact ⟨i, decodeWord_encode i, hrow⟩

theorem matchesWord_row_of_decodeWord {i : Instr} (h : decodeWord w = some i) :
    i.row.matchesWord w = true :=
  encode_of_decodeWord h ▸ matchesWord_row_encode i

/-- A row that a word is on is the row of the instruction it decodes to. -/
theorem row_eq_of_matchesWord {i : Instr} {r : Row} (hi : decodeWord w = some i) (hr : r ∈ opcodeTable)
    (h : r.matchesWord w = true) : r = i.row := by
  obtain ⟨j, hj, rfl⟩ := decodeWord_of_matchesWord hr h
  rw [Option.some.inj (hj.symm.trans hi)]

theorem decodeWord_eq_none_iff :
    decodeWord w = none ↔ ∀ r ∈ opcodeTable, r.matchesWord w = false := by
  constructor
  · intro hnone r hr
    by_contra hmatch
    obtain ⟨i, hi, -⟩ := decodeWord_of_matchesWord hr (eq_true_of_ne_false hmatch)
    cases hnone.symm.trans hi
  · intro hrows
    by_contra hsome
    obtain ⟨i, hi⟩ := Option.ne_none_iff_exists'.mp hsome
    have hmatch := matchesWord_row_of_decodeWord hi
    rw [hrows i.row (row_mem_opcodeTable i)] at hmatch
    cases hmatch

end

/-! ## The obligations -/

/-- Settles O2: the word of the two bytes is the instruction's encoding. -/
theorem decodeOfEncode : Obligations.DecodeOfEncode :=
  fun i rest => decode_bytesOfWord_append (decodeWord_encode i) rest

/-- Settles O3, along the branches of the decoder. -/
theorem encodeOfDecode : Obligations.EncodeOfDecode :=
  fun _ _ h => encode_of_decodeWord h

/-- Settles O4: the encoding of the decoded instruction is on its row, and a word on any row of the map
decodes to an instruction of that row. -/
theorem decodeIsTheOpcodeMap : Obligations.DecodeIsTheOpcodeMap :=
  fun _ =>
    ⟨fun i hi => ⟨row_mem_opcodeTable i, matchesWord_row_of_decodeWord hi,
      fun _ hr hmatch => row_eq_of_matchesWord hi hr hmatch, encode_of_decodeWord hi⟩,
    decodeWord_eq_none_iff⟩

/-- Settles O5, family by family; every word is in one of the sixteen. -/
theorem illegalWordsByFamily : Obligations.IllegalWordsByFamily := by
  intro w
  unfold decodeWord
  split
  case h_1 hf => simp [← BitVec.toNat_inj (x := opFamily w), hf, decodeFamily0_eq_none_iff]
  case h_9 hf => simp [← BitVec.toNat_inj (x := opFamily w), hf, decodeFamily8_eq_none_iff]
  case h_15 hf => simp [← BitVec.toNat_inj (x := opFamily w), hf, decodeFamilyE_eq_none_iff]
  case h_16 hf => simp [← BitVec.toNat_inj (x := opFamily w), hf, decodeFamilyF_eq_none_iff]
  case h_17 =>
    have hlt := (opFamily w).isLt
    simp only [imp_false] at *
    omega
  all_goals simp [← BitVec.toNat_inj (x := opFamily w), *]

/-- Settles O1, word by word. -/
theorem specWordsDecode : Obligations.SpecWordsDecode := by
  unfold Obligations.SpecWordsDecode
  decide

end Sys2Proof

namespace Sys2Proof.Machine

/-- A cycle that fetches an illegal word latches it in OPCODE and raises UNIMPLEMENTED_OPCODE with PC at
the word (R213, R220). -/
theorem State.cycle_of_decodeWord_eq_none {s : State} (hfault : s.fault = .none)
    (hfetch : s.fetchCause = .none) (hdecode : decodeWord s.fetchWord = none) :
    s.cycle = .next { s with opcode := s.fetchWord, fault := .unimplementedOpcode } := by
  obtain ⟨h, -⟩ | ⟨-, h, -⟩ | ⟨-, -, -, hcycle⟩ | ⟨i, -, -, h, -⟩ := s.cycle_eq
  · exact absurd hfault h
  · exact absurd hfetch h
  · rw [hcycle, s.fetched.raise_of_pc s.pc _ rfl]
    rfl
  · cases hdecode.symm.trans h

/-- Settles O9: a word on no row decodes to nothing. -/
theorem illegalWordFaults : Obligations.IllegalWordFaults :=
  fun s hfault hrange heven hrows =>
    State.cycle_of_decodeWord_eq_none hfault (s.fetchCause_eq_none.mpr ⟨hrange, heven⟩)
      (decodeWord_eq_none_iff.mpr hrows)

end Sys2Proof.Machine

/-! PROOFS. The cycle and the step: what fetch takes, which handler runs, that every instruction has a
next state, and what a cycle leaves to the environment (40_fetch_dispatch.md R120 to R129). -/

namespace Sys2Proof.Machine

/-! ## Fetch and decode (R121 to R124) -/

theorem State.running_iff {s : State} : s.running = true ↔ s.fault = .none ∧ s.cycleIsNext = true := by
  simp [State.running, State.halted]

/-- Two bytes decode as the word they make, high byte first, and nothing is left over (R63, R123). -/
theorem decode_pair_eq_ok {hi lo : Byte} {i : Instr} {rest : List Byte} :
    decode [hi, lo] = .ok (i, rest) ↔ decodeWord (wordOfBytes hi lo) = some i ∧ rest = [] := by
  rw [decode]
  cases decodeWord (wordOfBytes hi lo) <;> simp [eq_comm]

section
variable {s t : State}

theorem State.fetchCause_of_gt (h : s.pc.toNat + 1 > 4095) : s.fetchCause = .fetchOutOfRange :=
  if_pos h

theorem State.fetchCause_of_odd (hrange : s.pc.toNat + 1 ≤ 4095) (hodd : s.pc.toNat % 2 = 1) :
    s.fetchCause = .pcMisaligned :=
  (if_neg (Nat.not_lt.mpr hrange)).trans (if_pos hodd)

/-- A cycle that fails a check of fetch only sets FAULT (R121, R220). -/
theorem State.cycle_of_fetchCause_eq {c : Cause} (hfault : s.fault = .none) (hfetch : s.fetchCause = c)
    (hc : c ≠ .none) : s.cycle = .next { s with fault := c } := by
  subst hfetch
  obtain ⟨h, -⟩ | ⟨-, -, hcycle⟩ | ⟨-, h, -⟩ | ⟨i, -, h, -⟩ := s.cycle_eq
  · exact absurd hfault h
  · exact hcycle
  · exact absurd h hc
  · exact absurd h hc

/-- A cycle that fetches a legal word is the handler of its instruction (R124). -/
theorem State.cycle_of_decodeWord_eq_some {i : Instr} (hfault : s.fault = .none)
    (hfetch : s.fetchCause = .none) (hdecode : decodeWord s.fetchWord = some i) :
    s.cycle = exec i s.fetched := by
  obtain ⟨h, -⟩ | ⟨-, h, -⟩ | ⟨-, -, h, -⟩ | ⟨j, -, -, h, hcycle⟩ := s.cycle_eq
  · exact absurd hfault h
  · exact absurd hfetch h
  · cases hdecode.symm.trans h
  · cases hdecode.symm.trans h
    exact hcycle

/-- Once fetch passes its checks, OPCODE ends as the fetched word, whatever decode and the handler do
(R127). -/
theorem State.cycle_opcode (hfault : s.fault = .none) (hfetch : s.fetchCause = .none)
    (h : s.cycle = .next t) : t.opcode = s.fetchWord := by
  rcases hdecode : decodeWord s.fetchWord with _ | i
  · rw [State.cycle_of_decodeWord_eq_none hfault hfetch hdecode] at h
    injection h with h
    exact h ▸ rfl
  · rw [State.cycle_of_decodeWord_eq_some hfault hfetch hdecode] at h
    obtain ⟨-, -, hopcode, -⟩ := exec_frame i s.fetched t h
    exact hopcode

end

/-! ## What has a next state (R120, R253) -/

/-- A handler without a check has one answer; one with a check has a next state on either side of it. -/
theorem exec_exists_next (i : Instr) (s : State) : ∃ t, exec i s = .next t := by
  cases i with
  | cls | jp | seVxKk | sneVxKk | seVxVy | ldVxKk | addVxKk | ldVxVy | orVxVy | andVxVy | xorVxVy
  | addVxVy | sub | shr | subn | shl | sneVxVy | ldINnn | jpV0 | rnd | ldVxDt | ldDtVx | ldStVx
  | addIVx | ldFVx => exact ⟨_, rfl⟩
  | ret | call | drw | skp | sknp | ldVxK | ldBVx | ldMemVx | ldVxMem =>
    simp only [exec, execRet, execCall, execDrw, execSkp, execSknp, execLdVxK, execLdBVx, execLdMemVx,
      execLdVxMem]
    split <;> exact ⟨_, rfl⟩

theorem State.cycle_exists_next (s : State) : ∃ t, s.cycle = .next t := by
  obtain ⟨-, hc⟩ | ⟨-, -, hc⟩ | ⟨-, -, -, hc⟩ | ⟨i, -, -, -, hc⟩ := s.cycle_eq
  case inr.inr.inr => exact hc ▸ exec_exists_next i s.fetched
  all_goals exact ⟨_, hc⟩

theorem State.loadRom_of_oversized {bytes : List Byte} (s : State) (h : Config.romMax < bytes.length) :
    s.loadRom bytes = .refused .romImageTooLong :=
  if_neg (by simpa [Event.wellFormed] using h)

/-- Every event has a next state but `LoadROM` of an oversized image (R253). -/
theorem State.event_exists_next (s : State) (e : Event) :
    (∃ t, s.event e = .next t) ∨
    ∃ bytes, e = .loadRom bytes ∧ Config.romMax < bytes.length ∧ s.event e = .refused .romImageTooLong := by
  cases e with
  | reset | setKeys | ackRedraw | timerTick => exact .inl ⟨_, rfl⟩
  | cycle => exact .inl s.cycle_exists_next
  | loadRom bytes =>
    obtain hlong | hfits := Nat.lt_or_ge Config.romMax bytes.length
    · exact .inr ⟨bytes, rfl, hlong, s.loadRom_of_oversized hlong⟩
    · exact .inl ⟨_, State.loadRom_eq_next.mpr ⟨hfits, rfl⟩⟩

/-! ## The obligations -/

/-- Settles O14: the step is its next event, and changes nothing where none is to come. -/
theorem onlyAnOversizedImageIsRefused : Obligations.OnlyAnOversizedImageIsRefused := by
  refine ⟨exec_exists_next, fun s => ?_⟩
  rcases hnext : s.schedule.next with _ | ⟨e, c⟩
  · exact .inl ⟨s, step_of_stop hnext⟩
  · rw [step_of_next hnext]
    obtain hsome | ⟨bytes, rfl, hlong, hrefused⟩ := State.event_exists_next { s with schedule := c } e
    · exact .inl hsome
    · exact .inr ⟨bytes, c, rfl, hlong, hrefused⟩

/-- Settles O20: the frame of the handler that runs; without a handler only FAULT and OPCODE change. -/
theorem whatACycleDoesNotDo : Obligations.WhatACycleDoesNotDo := by
  intro s t h
  obtain ⟨i, hi, hexec⟩ | ht := State.cycle_cases h
  · obtain ⟨hkeys, -, -, -, hredraw, hdt, hst, -, -, hdraws, -⟩ := exec_frame i s.fetched t hexec
    simp only [hi, Option.some.injEq]
    exact ⟨hdt.symm, hst.symm, hredraw, hkeys, hdraws.symm⟩
  · rw [ht]
    exact ⟨.inl rfl, .inl rfl, id, rfl, .inl rfl⟩

/-- Settles O6: taking the event off the schedule leaves what fetch reads. -/
theorem stepRunsTheDecodedInstruction : Obligations.StepRunsTheDecodedInstruction := by
  intro s i rest hrun hrange heven hdecode
  obtain ⟨hfault, hnext⟩ := State.running_iff.mp hrun
  obtain ⟨hword, -⟩ := decode_pair_eq_ok.mp hdecode
  have hfetch : s.popEvent.fetchCause = .none :=
    s.popEvent.fetchCause_eq_none.mpr ⟨Nat.succ_le_succ hrange, heven⟩
  rw [step_of_cycleIsNext hnext, State.cycle_of_decodeWord_eq_some (s := s.popEvent) hfault hfetch hword]
  rfl

/-- Settles O8: the two checks of fetch in their order, then the word it takes. -/
theorem fetchChecksThenWord : Obligations.FetchChecksThenWord := by
  refine fun s hfault => ⟨fun hgt => ?range, fun hle hodd => ?parity, fun hle heven => ?word⟩
  case range => exact State.cycle_of_fetchCause_eq hfault (State.fetchCause_of_gt hgt) nofun
  case parity => exact State.cycle_of_fetchCause_eq hfault (State.fetchCause_of_odd hle hodd) nofun
  case word =>
    obtain ⟨t, ht⟩ := s.cycle_exists_next
    have hopcode := State.cycle_opcode hfault (s.fetchCause_eq_none.mpr ⟨hle, heven⟩) ht
    exact ⟨t, ht, by rw [hopcode, State.fetchWord_toNat]⟩

end Sys2Proof.Machine

/-! PROOFS. Control transfer: RET, JP, CALL and JP V0 (41_control_flow.md R140 to R143). -/

namespace Sys2Proof.Machine

/-! ## RET and CALL -/

section
variable {nnn : Addr12} {s : State}

/-- RET on an empty stack raises STACK_UNDERFLOW (R140). -/
theorem exec_ret_of_empty (h : s.sp.val = 0) : exec .ret s = .next (s.raise .stackUnderflow) := by
  obtain ⟨-, hpop⟩ | ⟨u, hlive, -⟩ := s.pop_eq
  · simp only [exec, execRet, hpop]
  · omega

/-- RET with a live entry takes PC from the newest one and drops it; the slot keeps its value (R26,
R140). -/
theorem exec_ret_of_live {k : Nat} (hk : k < 16) (h : s.sp.val = k + 1) :
    ∃ t, exec .ret s = .next t ∧ t.pc = s.stack[k] ∧ t.sp.val = k ∧
      t = { s with sp := t.sp, pc := t.pc } := by
  obtain ⟨hempty, -⟩ | ⟨u, hlive, hpop, husp, hu⟩ := s.pop_eq
  · omega
  · refine ⟨u.setPc s.stack[k], ?_, rfl, ?_, ?_⟩
    · simp only [exec, execRet, hpop, h, Nat.add_sub_cancel]
    · rw [State.setPc_sp, husp, h, Nat.add_sub_cancel]
    · rw [hu]
      rfl

/-- CALL on a full stack raises STACK_OVERFLOW (R142). -/
theorem exec_call_of_full (h : s.sp.val = 16) :
    exec (.call nnn) s = .next (s.raise .stackOverflow) := by
  obtain ⟨-, hpush⟩ | ⟨u, hroom, -⟩ := s.push_eq s.pc
  · simp only [exec, execCall, hpush]
  · omega

/-- CALL with room on the stack makes the advanced PC the newest entry and jumps (R142). -/
theorem exec_call_of_room (h : s.sp.val < 16) :
    ∃ t, exec (.call nnn) s = .next t ∧ t.pc = zextAddr nnn ∧ t.sp.val = s.sp.val + 1 ∧
      (∀ k (hk : k < 16), t.stack[k] = if k = s.sp.val then s.pc else s.stack[k]) ∧
      t = { s with sp := t.sp, stack := t.stack, pc := t.pc } := by
  obtain ⟨hfull, -⟩ | ⟨u, -, hpush, husp, hust, hu⟩ := s.push_eq s.pc
  · omega
  · refine ⟨u.setPc (zextAddr nnn), ?_, rfl, husp, hust, ?_⟩
    · simp only [exec, execCall, hpush]
    · rw [hu]
      rfl

/-! ## JP -/

/-- JP takes its target, unchecked (R141). -/
theorem exec_jp : exec (.jp nnn) s = .next (s.setPc (zextAddr nnn)) := rfl

/-- A cycle that runs a JP to the JP's own address writes OPCODE and nothing else (R141). -/
theorem State.cycle_of_selfJump (hfault : s.fault = .none) (hpc : s.pc.toNat = nnn.toNat)
    (heven : nnn.toNat % 2 = 0) (hword : s.fetchWord = formatNnn 0x1 nnn) :
    s.cycle = .next { s with opcode := formatNnn 0x1 nnn } := by
  have hfetch : s.fetchCause = .none := s.fetchCause_eq_none.mpr (by omega)
  have htarget : zextAddr nnn = s.pc := BitVec.eq_of_toNat_eq ((zextAddr_toNat nnn).trans hpc.symm)
  have hdecode : decodeWord s.fetchWord = some (.jp nnn) := hword ▸ decodeWord_encode (.jp nnn)
  rw [State.cycle_of_decodeWord_eq_some hfault hfetch hdecode, exec_jp, htarget, ← hword]
  rfl

/-! ## JP V0 -/

/-- JP V0 takes the sum as its target, unchecked (R143). -/
theorem exec_jpV0 :
    exec (.jpV0 nnn) s = .next (s.setPc (zextAddr nnn + zextByte (s.reg 0))) := rfl

/-- The sum of Bnnn is at most 4095 + 255, so nothing of it is lost in PC (R143). -/
theorem zextAddr_add_zextByte_toNat (b : Byte) :
    (zextAddr nnn + zextByte b).toNat = nnn.toNat + b.toNat := by
  rw [BitVec.toNat_add_of_lt, zextAddr_toNat, zextByte_toNat]
  rw [zextAddr_toNat, zextByte_toNat]
  omega

end

/-! ## The obligations -/

/-- Settles O25: the entry RET takes is the one CALL pushed, and the entries below it are those CALL
left alone. -/
theorem retUndoesCall : Obligations.RetUndoesCall := by
  intro s t t' nnn hroom hcall hsp hstack
  obtain ⟨t₀, ht₀, -, htsp, htst, -⟩ := exec_call_of_room (nnn := nnn) hroom
  cases ht₀.symm.trans hcall
  obtain ⟨u, hret, hupc, husp, hu⟩ := exec_ret_of_live (s := t') hroom (by rw [hsp, htsp])
  have hust : u.stack = t.stack := by rw [hu, ← hstack]
  refine ⟨u, hret, ?pc, Fin.ext husp, fun j hj => ?older⟩
  case pc => simp only [hupc, hstack, htst, if_true]
  case older => simp only [hust, htst j.val j.isLt, if_neg hj.ne]

/-- Settles O23: RET on an empty stack and on one with a newest entry `k`. -/
theorem retPopsTheReturnAddress : Obligations.RetPopsTheReturnAddress := by
  refine ⟨decodeWord_encode .ret, fun s => ⟨fun hempty p hp => ?empty, fun k hlive => ?live⟩⟩
  case empty => rw [exec_ret_of_empty hempty, s.raise_of_pc p _ hp]
  case live => exact exec_ret_of_live k.isLt hlive

/-- Settles O24: CALL on a full stack and on one whose first free entry is `k`. -/
theorem callPushesTheAdvancedPc : Obligations.CallPushesTheAdvancedPc := by
  refine fun nnn => ⟨decodeWord_encode (.call nnn), fun s => ⟨fun hfull p hp => ?full, fun k hk => ?room⟩⟩
  case full => rw [exec_call_of_full hfull, s.raise_of_pc p _ hp]
  case room =>
    obtain ⟨t, hexec, htpc, htsp, htst, ht⟩ := exec_call_of_room (nnn := nnn) (hk.trans_lt k.isLt)
    rw [hk] at htsp
    simp only [hk] at htst
    refine ⟨t, hexec, ?_, fun j hj => ?_, htsp, htpc ▸ zextAddr_toNat nnn, ht⟩
    · rw [htst k.val k.isLt, if_pos rfl]
    · rw [htst j.val j.isLt, if_neg (Fin.val_ne_of_ne hj)]

/-- Settles O26: after the JP the next cycle's fetch checks its target, and a JP to itself, run again
from the state with OPCODE written, writes the same OPCODE. -/
theorem jumpTakesTheTarget : Obligations.JumpTakesTheTarget := by
  intro nnn s
  have hpc : (s.setPc (zextAddr nnn)).pc.toNat = nnn.toNat := zextAddr_toNat nnn
  refine ⟨decodeWord_encode (.jp nnn), ⟨_, exec_jp, hpc, rfl, fun hfault hodd hle => ?odd,
    fun hfault hlast => ?last⟩, fun hfault hself heven hword => ⟨?first, ?later⟩⟩
  case odd =>
    exact State.cycle_of_fetchCause_eq hfault (State.fetchCause_of_odd (by omega) (by omega)) nofun
  case last => exact State.cycle_of_fetchCause_eq hfault (State.fetchCause_of_gt (by omega)) nofun
  case first => exact State.cycle_of_selfJump hfault hself heven hword
  case later =>
    exact State.cycle_of_selfJump (s := { s with opcode := formatNnn 0x1 nnn }) hfault hself heven hword

/-- Settles O27: the sum fits in PC. -/
theorem jumpWithOffsetAddsV0 : Obligations.JumpWithOffsetAddsV0 :=
  fun nnn s => ⟨decodeWord_encode (.jpV0 nnn), _, exec_jpV0, zextAddr_add_zextByte_toNat (s.reg 0), rfl⟩

end Sys2Proof.Machine

/-! PROOFS. Conditional skips: the skip mechanism, and SE and SNE on registers (40_fetch_dispatch.md R126,
42_skip.md R150 to R153). -/

namespace Sys2Proof.Machine

section
variable {i : Instr} {x y : Reg} {kk : Byte} {s : State} {c : Bool} {p : Prop}

/-! ## The skip mechanism (R126) -/

/-- A handler that only runs the skip mechanism on a test of `p` skips when `p` holds. -/
theorem skipsWhen_of_exec_eq_skipIf (hexec : exec i s = .next (s.skipIf c)) (hc : c = true ↔ p) :
    SkipsWhen i s p := by
  refine ⟨fun hp => ?skips, fun hp => ?falls⟩
  case skips =>
    rw [hexec, hc.mpr hp]
    rfl
  case falls =>
    rw [hexec, Bool.eq_false_of_not_eq_true (mt hc.mp hp)]
    rfl

/-! ## The tests: bytes are compared as unsigned numbers -/

theorem byte_beq_iff_toNat_eq {a b : Byte} : (a == b) = true ↔ a.toNat = b.toNat :=
  beq_iff_eq.trans BitVec.toNat_inj.symm

theorem byte_bne_iff_toNat_ne {a b : Byte} : (a != b) = true ↔ a.toNat ≠ b.toNat :=
  bne_iff_ne.trans BitVec.toNat_inj.not.symm

/-! ## The four register skips -/

/-- 3xkk (R150). -/
theorem skipsWhen_seVxKk : SkipsWhen (.seVxKk x kk) s ((s.reg x).toNat = kk.toNat) :=
  skipsWhen_of_exec_eq_skipIf rfl byte_beq_iff_toNat_eq

/-- 4xkk (R151). -/
theorem skipsWhen_sneVxKk : SkipsWhen (.sneVxKk x kk) s ((s.reg x).toNat ≠ kk.toNat) :=
  skipsWhen_of_exec_eq_skipIf rfl byte_bne_iff_toNat_ne

/-- 5xy0 (R152). -/
theorem skipsWhen_seVxVy : SkipsWhen (.seVxVy x y) s ((s.reg x).toNat = (s.reg y).toNat) :=
  skipsWhen_of_exec_eq_skipIf rfl byte_beq_iff_toNat_eq

/-- 9xy0 (R153). -/
theorem skipsWhen_sneVxVy : SkipsWhen (.sneVxVy x y) s ((s.reg x).toNat ≠ (s.reg y).toNat) :=
  skipsWhen_of_exec_eq_skipIf rfl byte_bne_iff_toNat_ne

end

/-- Settles O28: each word is the encoding of its skip, and each skip runs the skip mechanism on its
comparison. -/
theorem registerSkips : Obligations.RegisterSkips :=
  fun x y kk _ =>
    ⟨decodeWord_encode (.seVxKk x kk), skipsWhen_seVxKk,
      decodeWord_encode (.sneVxKk x kk), skipsWhen_sneVxKk,
      decodeWord_encode (.seVxVy x y), skipsWhen_seVxVy,
      decodeWord_encode (.sneVxVy x y), skipsWhen_sneVxVy⟩

end Sys2Proof.Machine

/-! PROOFS. Register load, arithmetic, logic, shift and random (43_load_alu.md R160 to R172). -/

namespace Sys2Proof.Machine

section
variable {i : Instr} {x y : Reg} {kk a b : Byte} {s : State} {c : Bool} {f r : Nat}

/-! ## The two write shapes (R125, R160) -/

/-- A handler that only writes `V[x]` sets it. -/
theorem setsReg_of_exec_eq_setReg (hexec : exec i s = .next (s.setReg x b)) (hb : b.toNat = r) :
    SetsReg i s x r :=
  ⟨_, hexec, by rw [State.reg_setReg_self, hb], fun _ hz => s.reg_setReg_ne b hz, s.setReg_frame x b⟩

/-- A handler that writes a flag and then `V[x]` sets both; the result stands when x = 15. -/
theorem setsFlagAndReg_of_exec_eq_setFlagThenReg (hexec : exec i s = .next (s.setFlagThenReg c x b))
    (hc : (flagByte c).toNat = f) (hb : b.toNat = r) : SetsFlagAndReg i s f x r := by
  refine ⟨_, hexec, ?result, fun hx => ?flag, fun z hzx hzf => ?others, rfl⟩
  case result => rw [State.reg_setFlagThenReg, if_pos rfl, hb]
  case flag => rw [State.reg_setFlagThenReg, if_neg (Ne.symm hx), if_pos rfl, hc]
  case others => rw [State.reg_setFlagThenReg, if_neg hzx, if_neg hzf]

/-! ## The flags as numbers (R22, R167 to R171) -/

theorem flagByte_toNat : (flagByte c).toNat = c.toNat := by
  cases c <;> rfl

theorem flagByte_decide_toNat {p : Prop} [Decidable p] :
    (flagByte (decide p)).toNat = if p then 1 else 0 := by
  by_cases hp : p <;> simp [flagByte, hp]

theorem flagByte_getLsbD_toNat (k : Nat) : (flagByte (a.getLsbD k)).toNat = a.toNat / 2 ^ k % 2 := by
  rw [flagByte_toNat, BitVec.getLsbD, Nat.toNat_testBit]

theorem flagByte_lowBit_toNat : (flagByte (lowBit a)).toNat = a.toNat % 2 := by
  rw [lowBit, flagByte_getLsbD_toNat, Nat.pow_zero, Nat.div_one]

/-- The quotient by 128 is a bit already: a byte is below 256. -/
theorem flagByte_highBit_toNat : (flagByte (highBit a)).toNat = a.toNat / 128 := by
  rw [highBit, flagByte_getLsbD_toNat]
  omega

/-! ## The results as numbers (R167 to R171) -/

theorem byte_sub_toNat : (a - b).toNat = (256 + a.toNat - b.toNat) % 256 := by
  rw [BitVec.toNat_sub]
  omega

theorem byte_shiftRight_one_toNat : (a >>> 1).toNat = a.toNat / 2 := by
  rw [BitVec.toNat_ushiftRight, Nat.shiftRight_eq_div_pow, Nat.pow_one]

theorem byte_shiftLeft_one_toNat : (a <<< 1).toNat = a.toNat * 2 % 256 := by
  rw [BitVec.toNat_shiftLeft, Nat.shiftLeft_eq, Nat.pow_one]

/-! ## Loads, add immediate and logic -/

/-- 6xkk (R161). -/
theorem setsReg_ldVxKk : SetsReg (.ldVxKk x kk) s x kk.toNat :=
  setsReg_of_exec_eq_setReg rfl rfl

/-- 7xkk (R162). -/
theorem setsReg_addVxKk : SetsReg (.addVxKk x kk) s x (((s.reg x).toNat + kk.toNat) % 256) :=
  setsReg_of_exec_eq_setReg rfl (BitVec.toNat_add _ _)

/-- 8xy0 (R163). -/
theorem setsReg_ldVxVy : SetsReg (.ldVxVy x y) s x (s.reg y).toNat :=
  setsReg_of_exec_eq_setReg rfl rfl

/-- 8xy1 (R164). -/
theorem setsReg_orVxVy : SetsReg (.orVxVy x y) s x ((s.reg x).toNat ||| (s.reg y).toNat) :=
  setsReg_of_exec_eq_setReg rfl (BitVec.toNat_or _ _)

/-- 8xy2 (R165). -/
theorem setsReg_andVxVy : SetsReg (.andVxVy x y) s x ((s.reg x).toNat &&& (s.reg y).toNat) :=
  setsReg_of_exec_eq_setReg rfl (BitVec.toNat_and _ _)

/-- 8xy3 (R166). -/
theorem setsReg_xorVxVy : SetsReg (.xorVxVy x y) s x ((s.reg x).toNat ^^^ (s.reg y).toNat) :=
  setsReg_of_exec_eq_setReg rfl (BitVec.toNat_xor _ _)

/-! ## Arithmetic and shifts with a flag -/

/-- 8xy4 (R167). -/
theorem setsFlagAndReg_addVxVy :
    SetsFlagAndReg (.addVxVy x y) s (if (s.reg x).toNat + (s.reg y).toNat > 255 then 1 else 0) x
      (((s.reg x).toNat + (s.reg y).toNat) % 256) :=
  setsFlagAndReg_of_exec_eq_setFlagThenReg rfl flagByte_decide_toNat (BitVec.toNat_add _ _)

/-- 8xy5 (R168). -/
theorem setsFlagAndReg_sub :
    SetsFlagAndReg (.sub x y) s (if (s.reg x).toNat > (s.reg y).toNat then 1 else 0) x
      ((256 + (s.reg x).toNat - (s.reg y).toNat) % 256) :=
  setsFlagAndReg_of_exec_eq_setFlagThenReg rfl flagByte_decide_toNat byte_sub_toNat

/-- 8xy7 (R170). -/
theorem setsFlagAndReg_subn :
    SetsFlagAndReg (.subn x y) s (if (s.reg y).toNat > (s.reg x).toNat then 1 else 0) x
      ((256 + (s.reg y).toNat - (s.reg x).toNat) % 256) :=
  setsFlagAndReg_of_exec_eq_setFlagThenReg rfl flagByte_decide_toNat byte_sub_toNat

/-- 8xy6 (R169). -/
theorem setsFlagAndReg_shr :
    SetsFlagAndReg (.shr x y) s ((s.reg x).toNat % 2) x ((s.reg x).toNat / 2) :=
  setsFlagAndReg_of_exec_eq_setFlagThenReg rfl flagByte_lowBit_toNat byte_shiftRight_one_toNat

/-- 8xyE (R171). -/
theorem setsFlagAndReg_shl :
    SetsFlagAndReg (.shl x y) s ((s.reg x).toNat / 128) x ((s.reg x).toNat * 2 % 256) :=
  setsFlagAndReg_of_exec_eq_setFlagThenReg rfl flagByte_highBit_toNat byte_shiftLeft_one_toNat

/-! ## RND -/

/-- Cxkk draws one byte, then writes its masked value to `V[x]` (R172). -/
theorem exec_rnd :
    exec (.rnd x kk) s = .next (s.drawByte.2.setReg x (Config.randomByte s.draws &&& kk)) := rfl

end

/-! ## The obligations -/

/-- Settles O30: each word is the encoding of its instruction, which only writes `V[x]`. -/
theorem loadAddAndLogic : Obligations.LoadAddAndLogic :=
  fun x y kk _ =>
    ⟨⟨decodeWord_encode (.ldVxKk x kk), setsReg_ldVxKk⟩,
      ⟨decodeWord_encode (.addVxKk x kk), setsReg_addVxKk⟩,
      ⟨decodeWord_encode (.ldVxVy x y), setsReg_ldVxVy⟩,
      ⟨decodeWord_encode (.orVxVy x y), setsReg_orVxVy⟩,
      ⟨decodeWord_encode (.andVxVy x y), setsReg_andVxVy⟩,
      ⟨decodeWord_encode (.xorVxVy x y), setsReg_xorVxVy⟩⟩

/-- Settles O31: the carry is written before the sum, both from the old operands. -/
theorem addWithCarryOut : Obligations.AddWithCarryOut :=
  fun x y _ => ⟨decodeWord_encode (.addVxVy x y), setsFlagAndReg_addVxVy⟩

/-- Settles O32: SUBN is SUB with the operands of the comparison and the difference exchanged. -/
theorem subtractWithStrictFlag : Obligations.SubtractWithStrictFlag :=
  fun x y _ =>
    ⟨⟨decodeWord_encode (.sub x y), setsFlagAndReg_sub⟩,
      ⟨decodeWord_encode (.subn x y), setsFlagAndReg_subn⟩⟩

/-- Settles O33: the bit shifted out is the remainder by 2, and the quotient by 128. -/
theorem shiftsInPlace : Obligations.ShiftsInPlace :=
  fun x y _ =>
    ⟨⟨decodeWord_encode (.shr x y), setsFlagAndReg_shr⟩,
      ⟨decodeWord_encode (.shl x y), setsFlagAndReg_shl⟩⟩

/-- Settles O34: the draw leaves the registers alone, and the register write leaves all else alone. -/
theorem randomAnd : Obligations.RandomAnd :=
  fun x kk s =>
    ⟨decodeWord_encode (.rnd x kk), _, exec_rnd, s.drawByte.2.reg_setReg_self x _,
      fun _ hz => s.drawByte.2.reg_setReg_ne _ hz, rfl⟩

end Sys2Proof.Machine

/-! PROOFS. The index register and the memory transfers: Annn, Fx1E, Fx29, Fx33, Fx55 and Fx65
(44_index_memory.md R180 to R185; the span check is that of 20_memory.md R68). -/

namespace Sys2Proof.Machine

section
variable {i : Instr} {nnn : Addr12} {x : Reg} {s : State} {b : Byte}

/-! ## The new I (R180 to R182) -/

/-- Annn (R180). -/
theorem exec_ldINnn : exec (.ldINnn nnn) s = .next (s.setI (zextAddr nnn)) := rfl

/-- Fx1E (R181). -/
theorem exec_addIVx : exec (.addIVx x) s = .next (s.setI (s.i + zextByte (s.reg x))) := rfl

/-- Fx29 (R182). -/
theorem exec_ldFVx : exec (.ldFVx x) s = .next (s.setI (glyphAddr (s.reg x))) := rfl

/-- The sum of Fx1E is reduced only at the width of I (R181). -/
theorem add_zextByte_toNat (a : Word) : (a + zextByte b).toNat = (a.toNat + b.toNat) % 65536 := by
  rw [BitVec.toNat_add, zextByte_toNat]

/-- The glyph address is at most 0x0050 + 5 · 255, so nothing of it is lost in I (R182). -/
theorem glyphAddr_toNat : (glyphAddr b).toNat = 0x0050 + 5 * b.toNat :=
  (BitVec.toNat_ofNat _ _).trans (Nat.mod_eq_of_lt (by simp only [Config.fontBase]; omega))

/-! ## The span check (R68) -/

theorem takesFault_of_exec_eq_raise {c : Cause} (hexec : exec i s = .next (s.raise c)) :
    TakesFault i s c :=
  fun p hp => by rw [hexec, s.raise_of_pc p c hp]

theorem State.not_spanFits_of_gt {last : Nat} (h : s.i.toNat + last > 4095) :
    ¬s.spanFits last = true := by
  rw [s.spanFits_iff]
  omega

/-- Fx33 with its span past the end of memory (R183). -/
theorem takesFault_ldBVx (h : s.i.toNat + 2 > 4095) : TakesFault (.ldBVx x) s .addressOutOfRange :=
  takesFault_of_exec_eq_raise (if_neg (State.not_spanFits_of_gt h))

/-- Fx55 with its span past the end of memory (R184). -/
theorem takesFault_ldMemVx (h : s.i.toNat + x.toNat > 4095) :
    TakesFault (.ldMemVx x) s .addressOutOfRange :=
  takesFault_of_exec_eq_raise (if_neg (State.not_spanFits_of_gt h))

/-- Fx65 with its span past the end of memory (R185). -/
theorem takesFault_ldVxMem (h : s.i.toNat + x.toNat > 4095) :
    TakesFault (.ldVxMem x) s .addressOutOfRange :=
  takesFault_of_exec_eq_raise (if_neg (State.not_spanFits_of_gt h))

/-! ## The transfers with their span inside memory -/

/-- Fx33 with its span inside memory writes the digits and nothing else (R183). -/
theorem exec_ldBVx_of_fits (hfits : s.i.toNat + 2 ≤ 4095) :
    exec (.ldBVx x) s =
      .next { s with mem := s.mem.writeBytes s.i.toNat (bcdDigits (s.reg x)) } :=
  if_pos ((s.spanFits_iff _).mpr hfits)

/-- Fx65 with its span inside memory writes the registers from the bytes at I on (R185). -/
theorem exec_ldVxMem_of_fits (hfits : s.i.toNat + x.toNat ≤ 4095) :
    exec (.ldVxMem x) s =
      .next (s.setRegsFrom 0 (s.mem.readBytes s.i.toNat (x.toNat + 1))) :=
  if_pos ((s.spanFits_iff _).mpr hfits)

/-- Each digit is below 10, so nothing of it is lost in its byte (R183). -/
theorem bcdDigits_map_toNat :
    (bcdDigits b).map BitVec.toNat = [b.toNat / 100, b.toNat / 10 % 10, b.toNat % 10] := by
  have hb := b.isLt
  simp only [bcdDigits, List.map_cons, List.map_nil, BitVec.toNat_ofNat, List.cons.injEq, and_true]
  omega

/-- A register below `n` is read from its byte of the run, and the others are as before (R185). -/
theorem State.reg_setRegsFrom_readBytes {n : Nat} (hn : n ≤ 16) (m : Memory) (a : Nat) (k : Reg) :
    (s.setRegsFrom 0 (m.readBytes a n)).reg k = if k.toNat < n then m.read (a + k.toNat) else s.reg k := by
  have hlen := m.length_readBytes a n
  rw [s.reg_setRegsFrom 0 _ (by omega)]
  by_cases hk : k.toNat < n
  · rw [dif_pos (by omega), if_pos hk, Memory.getElem_readBytes, Nat.sub_zero]
  · rw [dif_neg (by omega), if_neg hk]

end

/-! ## Reading a run of writes inside memory (R69, R71) -/

section
variable {m : Memory} {a : Nat} {l : List Byte} (hwf : m.wf = true) (hspan : a + l.length ≤ Config.memSize)
include hwf hspan

theorem Memory.read_writeBytes_of_lt {k : Nat} (hk : k < l.length) :
    (m.writeBytes a l).read (a + k) = l[k] := by
  rw [Memory.read_writeBytes hwf hspan, dif_pos (by omega)]
  simp only [Nat.add_sub_cancel_left]

theorem Memory.read_writeBytes_of_outside {c : Nat} (hc : c < a ∨ a + l.length ≤ c) :
    (m.writeBytes a l).read c = m.read c := by
  rw [Memory.read_writeBytes hwf hspan, dif_neg (by omega)]

end

/-- The digits of Fx33, read back from memory (R183). -/
theorem Memory.read_writeBytes_bcdDigits {m : Memory} {a : Nat} {b : Byte} (hwf : m.wf = true)
    (hspan : a + (bcdDigits b).length ≤ Config.memSize) (k : Fin 3) :
    ((m.writeBytes a (bcdDigits b)).read (a + k.val)).toNat =
      [b.toNat / 100, b.toNat / 10 % 10, b.toNat % 10][k] := by
  have hk : k.val < (bcdDigits b).length := k.isLt
  rw [Memory.read_writeBytes_of_lt hwf hspan hk,
    ← List.getElem_map BitVec.toNat (h := by rwa [List.length_map])]
  simp only [bcdDigits_map_toNat, Fin.getElem_fin]

/-! ## The obligations -/

/-- Settles O39: a register is in the run that is loaded exactly if it is at most `x`. -/
theorem loadBlock : Obligations.LoadBlock := by
  refine fun x s => ⟨decodeWord_encode (.ldVxMem x), takesFault_ldVxMem, fun hfits =>
    ⟨_, exec_ldVxMem_of_fits hfits, fun k hk => ?loaded, fun k hk => ?above,
      s.setRegsFrom_frame 0 _⟩⟩
  case loaded => rw [State.reg_setRegsFrom_readBytes x.isLt, if_pos (Nat.lt_succ_of_le hk)]
  case above => rw [State.reg_setRegsFrom_readBytes x.isLt, if_neg (Nat.not_lt.mpr hk)]

/-- Settles O40: the load reads, at the address of each register, the byte the store left there. -/
theorem loadRestoresWhatStoreSaved : Obligations.LoadRestoresWhatStoreSaved := by
  intro x s t t' hwf hfits hstore hmem hi
  obtain ⟨-, -, hload⟩ := loadBlock x t'
  obtain ⟨u, hexec, hloaded, -, -⟩ := hload (hi ▸ hfits)
  refine ⟨u, hexec, fun k hk => ?_⟩
  rw [hloaded k hk, hmem, hi, read_of_exec_ldMemVx hwf hfits hstore hk]

/-- Settles O38: the bytes of the span are those of Fx55's own lemma, and the run of writes is as long as
the span. -/
theorem storeBlock : Obligations.StoreBlock := by
  refine fun x s => ⟨decodeWord_encode (.ldMemVx x), takesFault_ldMemVx, fun hfits hwf =>
    ⟨_, exec_ldMemVx_of_fits hfits,
      fun k hk => read_of_exec_ldMemVx hwf hfits (exec_ldMemVx_of_fits hfits) hk,
      fun a ha => ?outside, rfl⟩⟩
  case outside =>
    have hlen := s.length_regsUpTo x
    exact Memory.read_writeBytes_of_outside hwf (hlen ▸ Nat.succ_le_succ hfits) (by omega)

/-- Settles O37: the k-th of the three digits is read at I + k. -/
theorem bcdStoresThreeDigits : Obligations.BcdStoresThreeDigits := by
  refine fun x s => ⟨decodeWord_encode (.ldBVx x), takesFault_ldBVx, fun hfits hwf => ?_⟩
  have hspan : s.i.toNat + (bcdDigits (s.reg x)).length ≤ Config.memSize := Nat.succ_le_succ hfits
  have hdigit := Memory.read_writeBytes_bcdDigits hwf hspan
  exact ⟨_, exec_ldBVx_of_fits hfits, hdigit 0, hdigit 1, hdigit 2,
    fun a ha => Memory.read_writeBytes_of_outside hwf hspan ha, rfl⟩

/-- Settles O35: both new values fit in I. -/
theorem indexRegisterLoads : Obligations.IndexRegisterLoads :=
  fun nnn x _ =>
    ⟨⟨decodeWord_encode (.ldINnn nnn), _, exec_ldINnn, zextAddr_toNat nnn, rfl⟩,
      ⟨decodeWord_encode (.ldFVx x), _, exec_ldFVx, glyphAddr_toNat, rfl⟩⟩

/-- Settles O36: the addition of I's own width. -/
theorem addToIndexWrapsAt16Bits : Obligations.AddToIndexWrapsAt16Bits :=
  fun x s => ⟨decodeWord_encode (.addIVx x), _, exec_addIVx, add_zextByte_toNat s.i, rfl⟩

end Sys2Proof.Machine

/-! PROOFS. Display: CLS and DRW (45_display.md R190 to R195; the span check is that of 20_memory.md
R68). -/

namespace Sys2Proof.Machine

section
variable {x y : Reg} {n : Nibble} {s : State}

/-! ## The handlers' answers (R190, R191, R194) -/

/-- 00E0 (R190). -/
theorem exec_cls : exec .cls s = .next { s with fb := clearFb, redraw := true } := rfl

/-- Dxyn with no sprite byte, or with its span inside memory (R194). -/
theorem exec_drw_of_fits (h : n.toNat = 0 ∨ s.i.toNat + n.toNat - 1 ≤ 4095) :
    exec (.drw x y n) s = .next (s.draw x y n) := by
  refine if_pos ?_
  obtain hzero | hfits := h
  · exact .inl (BitVec.eq_of_toNat_eq hzero)
  · by_cases hzero : n = 0
    · exact .inl hzero
    · have hpos : n.toNat ≠ 0 := fun h => hzero (BitVec.eq_of_toNat_eq h)
      exact .inr ((s.spanFits_iff _).mpr (by omega))

/-- Dxyn with its span past the end of memory (R194). -/
theorem takesFault_drw (hn : n.toNat ≥ 1) (hspan : s.i.toNat + n.toNat - 1 > 4095) :
    TakesFault (.drw x y n) s .addressOutOfRange := by
  have hzero : n ≠ 0 := by
    rintro rfl
    contradiction
  exact takesFault_of_exec_eq_raise
    (if_neg (not_or.mpr ⟨hzero, State.not_spanFits_of_gt (by omega)⟩))

/-! ## What a draw changes (R191 to R193, R195) -/

theorem State.pixel_draw_of_covers {py : Fin 32} {px : Fin 64} (h : spriteCovers s x y n py px) :
    pixel (s.draw x y n).fb py px = !pixel s.fb py px := by
  obtain ⟨hpixel, -⟩ := s.draw_spec x y n
  simp [hpixel, h]

theorem State.pixel_draw_of_not_covers {py : Fin 32} {px : Fin 64} (h : ¬spriteCovers s x y n py px) :
    pixel (s.draw x y n).fb py px = pixel s.fb py px := by
  obtain ⟨hpixel, -⟩ := s.draw_spec x y n
  simp [hpixel, h]

theorem flagByte_decide_eq_one_iff {p : Prop} [Decidable p] : flagByte (decide p) = 1 ↔ p := by
  by_cases hp : p <;> simp [flagByte, hp]

theorem flagByte_decide_eq_zero_iff {p : Prop} [Decidable p] : flagByte (decide p) = 0 ↔ ¬p := by
  by_cases hp : p <;> simp [flagByte, hp]

/-- A collision is reported exactly if a covered pixel was on (R193). -/
theorem State.reg_vf_draw_eq_one_iff :
    (s.draw x y n).reg vf = 1 ↔ ∃ py px, spriteCovers s x y n py px ∧ pixel s.fb py px = true := by
  obtain ⟨-, hflag⟩ := s.draw_spec x y n
  simp only [hflag, flagByte_decide_eq_one_iff]

/-- VF is cleared exactly if every covered pixel was off (R193). -/
theorem State.reg_vf_draw_eq_zero_iff :
    (s.draw x y n).reg vf = 0 ↔ ¬∃ py px, spriteCovers s x y n py px ∧ pixel s.fb py px = true := by
  obtain ⟨-, hflag⟩ := s.draw_spec x y n
  simp only [hflag, flagByte_decide_eq_zero_iff]

theorem State.reg_draw_of_ne {z : Reg} (h : z ≠ vf) : (s.draw x y n).reg z = s.reg z :=
  State.reg_setReg_ne _ _ h

end

/-! ## A second draw of the same sprite (R195) -/

section
variable {x y : Reg} {n : Nibble} {s s2 : State}

/-- The pixels a draw covers depend on nothing but I, memory, and the two registers. -/
theorem spriteCovers_congr (hi : s2.i = s.i) (hmem : s2.mem = s.mem) (hx : s2.reg x = s.reg x)
    (hy : s2.reg y = s.reg y) (py : Fin 32) (px : Fin 64) :
    spriteCovers s2 x y n py px ↔ spriteCovers s x y n py px := by
  simp only [spriteCovers, hi, hmem, hx, hy]

/-- A covered pixel is inverted twice, any other is never touched. -/
theorem State.fb_draw_draw (hfb : s2.fb = (s.draw x y n).fb)
    (hcovers : ∀ py px, spriteCovers s2 x y n py px ↔ spriteCovers s x y n py px) :
    (s2.draw x y n).fb = s.fb := by
  refine frameBuffer_ext fun py px => ?_
  by_cases h : spriteCovers s x y n py px
  · rw [State.pixel_draw_of_covers ((hcovers py px).mpr h), hfb, State.pixel_draw_of_covers h, Bool.not_not]
  · rw [State.pixel_draw_of_not_covers (mt (hcovers py px).mp h), hfb, State.pixel_draw_of_not_covers h]

/-- The second draw finds a covered pixel on exactly if the first found it off. -/
theorem State.reg_vf_draw_draw_eq_one_iff (hfb : s2.fb = (s.draw x y n).fb)
    (hcovers : ∀ py px, spriteCovers s2 x y n py px ↔ spriteCovers s x y n py px) :
    (s2.draw x y n).reg vf = 1 ↔
      ∃ py px, spriteCovers s x y n py px ∧ pixel s.fb py px = false := by
  rw [State.reg_vf_draw_eq_one_iff]
  refine exists₂_congr fun py px => ?_
  rw [hcovers, hfb]
  refine and_congr_right fun h => ?_
  rw [State.pixel_draw_of_covers h, Bool.not_eq_true']

end

/-! ## The obligations -/

/-- Settles O43: a covered pixel is inverted and no other is, and VF is the collision flag. -/
theorem drawSprite : Obligations.DrawSprite :=
  fun x y n _ =>
    ⟨decodeWord_encode (.drw x y n), fun ⟨hn, hspan⟩ => takesFault_drw hn hspan, fun hfits =>
      ⟨_, exec_drw_of_fits hfits, fun _ _ => State.pixel_draw_of_covers,
        fun _ _ => State.pixel_draw_of_not_covers, State.reg_vf_draw_eq_one_iff.mpr,
        State.reg_vf_draw_eq_zero_iff.mpr, fun _ => State.reg_draw_of_ne, rfl, rfl⟩⟩

/-- Settles O44: the second draw covers the pixels of the first, and each of them is inverted twice. -/
theorem drawingTwiceRestores : Obligations.DrawingTwiceRestores := by
  refine fun x y n s s2 hfits =>
    ⟨_, exec_drw_of_fits hfits, rfl, State.reg_vf_draw_eq_one_iff, fun hfb hi hmem hx hy => ?_⟩
  have hcovers := spriteCovers_congr (n := n) hi hmem hx hy
  exact ⟨_, exec_drw_of_fits (hi ▸ hfits), State.fb_draw_draw hfb hcovers, rfl,
    State.reg_vf_draw_draw_eq_one_iff hfb hcovers⟩

/-- Settles O42: the frame buffer of a clear is the one with every pixel off. -/
theorem clearScreen : Obligations.ClearScreen :=
  ⟨decodeWord_encode .cls, fun _ => ⟨_, exec_cls, pixel_clearFb, rfl, rfl⟩⟩

end Sys2Proof.Machine

/-! PROOFS. Keypad and timer instructions: SKP, SKNP, Fx0A, Fx07, Fx15 and Fx18 (46_keypad_timers.md R200
to R205). -/

namespace Sys2Proof.Machine

section
variable {x : Reg} {s : State}

/-! ## The key skips (R200, R201) -/

theorem State.keyPressed_of_le {k : Byte} (h : k.toNat ≤ 15) :
    s.keyPressed k = some (s.keys.getLsbD k.toNat) :=
  if_pos h

theorem State.keyPressed_of_gt {k : Byte} (h : k.toNat > 15) : s.keyPressed k = none :=
  if_neg (Nat.not_le.mpr h)

/-- Ex9E with a key number (R200). -/
theorem skipsWhen_skp (h : (s.reg x).toNat ≤ 15) :
    SkipsWhen (.skp x) s (s.keys.getLsbD (s.reg x).toNat = true) :=
  skipsWhen_of_exec_eq_skipIf (by simp only [exec, execSkp, State.keyPressed_of_le h]) Iff.rfl

/-- ExA1 with a key number (R201). -/
theorem skipsWhen_sknp (h : (s.reg x).toNat ≤ 15) :
    SkipsWhen (.sknp x) s (s.keys.getLsbD (s.reg x).toNat = false) :=
  skipsWhen_of_exec_eq_skipIf (c := !s.keys.getLsbD (s.reg x).toNat)
    (by simp only [exec, execSknp, State.keyPressed_of_le h]) (by rw [Bool.not_eq_true'])

/-- Ex9E with a number above 15 (R200). -/
theorem takesFault_skp (h : (s.reg x).toNat > 15) : TakesFault (.skp x) s .keyIndexOutOfRange :=
  takesFault_of_exec_eq_raise (by simp only [exec, execSkp, State.keyPressed_of_gt h])

/-- ExA1 with a number above 15 (R201). -/
theorem takesFault_sknp (h : (s.reg x).toNat > 15) : TakesFault (.sknp x) s .keyIndexOutOfRange :=
  takesFault_of_exec_eq_raise (by simp only [exec, execSknp, State.keyPressed_of_gt h])

/-! ## The wait for a key (R202) -/

theorem lowestKey_zero : lowestKey 0 = none := by
  obtain ⟨-, hnone⟩ | ⟨k, -, -, hk, -⟩ := lowestKey_eq 0
  · exact hnone
  · simp at hk

/-- The least pressed key is the one that is pressed with none below it. -/
theorem lowestKey_of_least {keys : Word} {k : Nat} (hk : keys.getLsbD k = true)
    (hleast : ∀ j, j < k → keys.getLsbD j = false) : lowestKey keys = some k := by
  obtain ⟨rfl, -⟩ | ⟨l, -, hl, hpressed, hbelow⟩ := lowestKey_eq keys
  · simp at hk
  · obtain hlt | rfl | hgt := Nat.lt_trichotomy l k
    · cases hpressed.symm.trans (hleast l hlt)
    · exact hl
    · cases hk.symm.trans (hbelow k hgt)

/-- Fx0A with no key pressed takes the advance of PC back and does nothing else. -/
theorem exec_ldVxK_of_no_key {p : Word} (hkeys : s.keys = 0) (hp : s.pc = p + 2) :
    exec (.ldVxK x) s = .next { s with pc := p } := by
  have hback : s.pc - 2 = p := by rw [hp, BitVec.add_sub_cancel]
  have hnone : lowestKey s.keys = none := by rw [hkeys, lowestKey_zero]
  simp only [exec, execLdVxK, hnone, hback]
  rfl

/-- Fx0A with a key pressed takes the least one. -/
theorem setsReg_ldVxK {k : Fin 16} (hk : s.keys.getLsbD k.val = true)
    (hleast : ∀ j, j < k.val → s.keys.getLsbD j = false) : SetsReg (.ldVxK x) s x k.val :=
  setsReg_of_exec_eq_setReg (b := BitVec.ofNat 8 k.val)
    (by simp only [exec, execLdVxK, lowestKey_of_least hk hleast])
    ((BitVec.toNat_ofNat _ _).trans (Nat.mod_eq_of_lt (by omega)))

/-! ## The timers (R203 to R205) -/

/-- Fx07 (R203). -/
theorem setsReg_ldVxDt : SetsReg (.ldVxDt x) s x s.dt.toNat :=
  setsReg_of_exec_eq_setReg rfl rfl

/-- Fx15 (R204). -/
theorem exec_ldDtVx : exec (.ldDtVx x) s = .next { s with dt := s.reg x } := rfl

/-- Fx18 (R205). -/
theorem exec_ldStVx : exec (.ldStVx x) s = .next { s with st := s.reg x } := rfl

/-- The tone is on exactly while ST is not 0 (R233). -/
theorem State.tone_eq_decide : s.tone = decide (s.st.toNat ≠ 0) :=
  Bool.eq_iff_iff.mpr (byte_bne_iff_toNat_ne.trans decide_eq_true_iff.symm)

end

/-! ## The obligations -/

/-- Settles O29: the two skips test the same key, SKNP for the opposite state, and share their check. -/
theorem keySkips : Obligations.KeySkips :=
  fun x _ =>
    ⟨decodeWord_encode (.skp x), decodeWord_encode (.sknp x),
      fun hle => ⟨skipsWhen_skp hle, skipsWhen_sknp hle⟩,
      fun hgt => ⟨takesFault_skp hgt, takesFault_sknp hgt⟩⟩

/-- Settles O45: the key found is the pressed one with no pressed key below it. -/
theorem waitForKey : Obligations.WaitForKey :=
  fun x _ =>
    ⟨decodeWord_encode (.ldVxK x), fun hkeys _ hp => exec_ldVxK_of_no_key hkeys hp,
      fun _ hk hleast => setsReg_ldVxK hk hleast⟩

/-- Settles O46: each word is the encoding of its instruction, which makes one write; the tone follows
ST. -/
theorem timerInstructions : Obligations.TimerInstructions :=
  fun x _ =>
    ⟨⟨decodeWord_encode (.ldVxDt x), setsReg_ldVxDt⟩,
      ⟨decodeWord_encode (.ldDtVx x), exec_ldDtVx⟩,
      ⟨decodeWord_encode (.ldStVx x), exec_ldStVx, State.tone_eq_decide⟩⟩

end Sys2Proof.Machine

/-! PROOFS. Faults: the cause of a cycle is its first failing check, and a faulting cycle is precise
(60_exceptions.md R210 to R220). -/

namespace Sys2Proof.Machine

section
variable {i : Instr} {s : State}

/-! ## The check of a handler (R219) -/

/-- A check with one cause: where it fails, it names the fault the handler takes. -/
theorem takesFault_ite {p : Prop} [Decidable p] {c : Cause} (h : (if p then c else .none) ≠ Cause.none)
    (hfails : p → c ≠ .none → TakesFault i s c) : TakesFault i s (if p then c else .none) := by
  obtain ⟨hp, hc⟩ := ite_ne_right_iff.mp h
  rw [if_pos hp]
  exact hfails hp hc

/-- A check with one cause that names no fault does not fail. -/
theorem not_of_ite_cause_eq_none {p : Prop} [Decidable p] {c : Cause}
    (h : (if p then c else .none) = Cause.none) (hc : c ≠ .none) : ¬p :=
  fun hp => hc (ite_eq_right_iff.mp h hp)

theorem le_of_spanCause_eq_none {last : Nat} (h : spanCause s last = .none) : s.i.toNat + last ≤ 4095 :=
  Nat.le_of_not_lt (not_of_ite_cause_eq_none h nofun)

theorem le_of_keyCause_eq_none {x : Reg} (h : keyCause s x = .none) : (s.reg x).toNat ≤ 15 :=
  Nat.le_of_not_lt (not_of_ite_cause_eq_none h nofun)

/-- A handler whose check fails takes the fault the check names. -/
theorem takesFault_handlerCause (h : handlerCause i s ≠ .none) : TakesFault i s (handlerCause i s) := by
  cases i with
  | cls | jp | seVxKk | sneVxKk | seVxVy | ldVxKk | addVxKk | ldVxVy | orVxVy | andVxVy | xorVxVy
  | addVxVy | sub | shr | subn | shl | sneVxVy | ldINnn | jpV0 | rnd | ldVxDt | ldVxK | ldDtVx | ldStVx
  | addIVx | ldFVx => exact absurd rfl h
  | ret => exact takesFault_ite h fun hempty _ => takesFault_of_exec_eq_raise (exec_ret_of_empty hempty)
  | call => exact takesFault_ite h fun hfull _ => takesFault_of_exec_eq_raise (exec_call_of_full hfull)
  | skp => exact takesFault_ite h fun hkey _ => takesFault_skp hkey
  | sknp => exact takesFault_ite h fun hkey _ => takesFault_sknp hkey
  | ldBVx => exact takesFault_ite h fun hspan _ => takesFault_ldBVx hspan
  | ldMemVx => exact takesFault_ite h fun hspan _ => takesFault_ldMemVx hspan
  | ldVxMem => exact takesFault_ite h fun hspan _ => takesFault_ldVxMem hspan
  | drw x y n =>
    exact takesFault_ite h fun hrows hcause =>
      takesFault_ite hcause fun hspan _ => takesFault_drw hrows (by omega)

/-- A handler whose check passes completes and leaves FAULT alone. -/
theorem exec_of_handlerCause_eq_none (h : handlerCause i s = .none) :
    ∃ t, exec i s = .next t ∧ t.fault = s.fault := by
  cases i with
  | cls | jp | ldVxKk | addVxKk | ldVxVy | orVxVy | andVxVy | xorVxVy | addVxVy | sub | shr | subn | shl
  | ldINnn | jpV0 | rnd | ldVxDt | ldDtVx | ldStVx | addIVx | ldFVx => exact ⟨_, rfl, rfl⟩
  | seVxKk | sneVxKk | seVxVy | sneVxVy => exact ⟨_, rfl, s.skipIf_fault _⟩
  | ldVxK =>
    rw [exec, execLdVxK]
    split <;> exact ⟨_, rfl, rfl⟩
  | ret =>
    obtain ⟨k, hk⟩ := Nat.exists_eq_succ_of_ne_zero (not_of_ite_cause_eq_none h nofun)
    obtain ⟨t, ht, -, -, hframe⟩ := exec_ret_of_live (by omega) hk
    exact ⟨t, ht, by rw [hframe]⟩
  | call nnn =>
    have hnotfull : s.sp.val ≠ 16 := not_of_ite_cause_eq_none h nofun
    have hroom : s.sp.val < 16 := by omega
    obtain ⟨t, ht, -, -, -, hframe⟩ := exec_call_of_room (nnn := nnn) hroom
    exact ⟨t, ht, by rw [hframe]⟩
  | skp | sknp =>
    simp only [exec, execSkp, execSknp, State.keyPressed_of_le (le_of_keyCause_eq_none h)]
    exact ⟨_, rfl, s.skipIf_fault _⟩
  | ldBVx => exact ⟨_, exec_ldBVx_of_fits (le_of_spanCause_eq_none h), rfl⟩
  | ldMemVx => exact ⟨_, exec_ldMemVx_of_fits (le_of_spanCause_eq_none h), rfl⟩
  | ldVxMem => exact ⟨_, exec_ldVxMem_of_fits (le_of_spanCause_eq_none h), by rw [State.setRegsFrom_frame]⟩
  | drw x y n =>
    refine ⟨_, exec_drw_of_fits ?_, rfl⟩
    obtain hzero | hrows := Nat.eq_zero_or_pos n.toNat
    · exact .inl hzero
    · have hspan := le_of_spanCause_eq_none ((if_pos hrows).symm.trans h)
      exact .inr (by omega)

/-! ## The checks of a cycle in their order (R219) -/

/-- The first check that fails: one of fetch, decode, or that of the handler. -/
theorem cycleCause_eq (s : State) :
    (s.fetchCause ≠ .none ∧ cycleCause s = s.fetchCause) ∨
    (s.fetchCause = .none ∧ decodeWord s.fetchWord = none ∧ cycleCause s = .unimplementedOpcode) ∨
    ∃ i, s.fetchCause = .none ∧ decodeWord s.fetchWord = some i ∧ cycleCause s = handlerCause i s := by
  by_cases hfetch : s.fetchCause = .none
  · obtain ⟨hrange, heven⟩ := s.fetchCause_eq_none.mp hfetch
    rw [cycleCause, if_neg (by omega), if_neg (by omega)]
    cases hdecode : decodeWord s.fetchWord with
    | none => exact .inr (.inl ⟨hfetch, rfl, rfl⟩)
    | some i => exact .inr (.inr ⟨i, hfetch, rfl, rfl⟩)
  · refine .inl ⟨hfetch, ?_⟩
    by_cases hrange : s.pc.toNat + 1 > 4095
    · rw [cycleCause, if_pos hrange, State.fetchCause_of_gt hrange]
    · have hodd : s.pc.toNat % 2 = 1 := by
        rw [s.fetchCause_eq_none] at hfetch
        omega
      rw [cycleCause, if_neg hrange, if_pos hodd, State.fetchCause_of_odd (by omega) hodd]

/-- The handler's check reads nothing that fetch changes. -/
theorem handlerCause_fetched (i : Instr) (s : State) : handlerCause i s.fetched = handlerCause i s := by
  cases i <;> rfl

/-- A cycle with a failing check sets FAULT to its cause, latches the word if fetch took one, and
changes nothing else (R220). -/
theorem State.cycle_of_cycleCause_ne_none (hfault : s.fault = .none) (hcause : cycleCause s ≠ .none) :
    s.cycle = .next { s with
      fault := cycleCause s
      opcode := if s.pc.toNat + 1 ≤ 4095 ∧ s.pc.toNat % 2 = 0 then s.fetchWord else s.opcode } := by
  obtain ⟨hfetch, hc⟩ | ⟨hfetch, hdecode, hc⟩ | ⟨i, hfetch, hdecode, hc⟩ := cycleCause_eq s <;> rw [hc]
  · rw [if_neg (mt s.fetchCause_eq_none.mpr hfetch), State.cycle_of_fetchCause_eq hfault rfl hfetch]
  · rw [if_pos (s.fetchCause_eq_none.mp hfetch), State.cycle_of_decodeWord_eq_none hfault hfetch hdecode]
  · rw [if_pos (s.fetchCause_eq_none.mp hfetch), State.cycle_of_decodeWord_eq_some hfault hfetch hdecode]
    rw [hc, ← handlerCause_fetched] at hcause
    rw [takesFault_handlerCause hcause s.pc rfl, handlerCause_fetched]
    rfl

/-- A cycle with no failing check completes with FAULT as it was. -/
theorem State.cycle_of_cycleCause_eq_none (hfault : s.fault = .none) (hcause : cycleCause s = .none) :
    ∃ t, s.cycle = .next t ∧ t.fault = .none := by
  obtain ⟨hfetch, hc⟩ | ⟨-, -, hc⟩ | ⟨i, hfetch, hdecode, hc⟩ := cycleCause_eq s <;> rw [hc] at hcause
  · exact absurd hcause hfetch
  · cases hcause
  · rw [← handlerCause_fetched] at hcause
    obtain ⟨t, ht, htfault⟩ := exec_of_handlerCause_eq_none hcause
    rw [State.cycle_of_decodeWord_eq_some hfault hfetch hdecode]
    exact ⟨t, ht, htfault.trans hfault⟩

/-- The fault of a cycle is the cause of its first failing check. -/
theorem State.cycle_fault (hfault : s.fault = .none) : ∃ t, s.cycle = .next t ∧ t.fault = cycleCause s := by
  by_cases hcause : cycleCause s = .none
  · rw [hcause]
    exact State.cycle_of_cycleCause_eq_none hfault hcause
  · exact ⟨_, State.cycle_of_cycleCause_ne_none hfault hcause, rfl⟩

end

/-! ## The obligations -/

/-- Settles O12: the codes by their table, the fault by the order of the checks. -/
theorem faultCausesInPriorityOrder : Obligations.FaultCausesInPriorityOrder :=
  ⟨⟨rfl, rfl, rfl, rfl, rfl, rfl, rfl, rfl⟩, fun _ => State.cycle_fault⟩

/-- Settles O11: a cycle that ends with a fault is one with a failing check. -/
theorem faultsArePrecise : Obligations.FaultsArePrecise := by
  intro s t hfault h hfaulted
  obtain ⟨u, hu, hufault⟩ := State.cycle_fault hfault
  obtain rfl : u = t := Host.Outcome.next.inj (hu.symm.trans h)
  rw [hufault] at hfaulted ⊢
  exact Host.Outcome.next.inj (hu.symm.trans (State.cycle_of_cycleCause_ne_none hfault hfaulted))

end Sys2Proof.Machine

/-! PROOFS. The timers, the host's events and the ports, reset and the load of an image (60_exceptions.md
R222, R226, R231 to R233; 70_reset_and_hazards.md R250 to R256). -/

namespace Sys2Proof.Machine

/-! ## The halted core and the timer tick (R222, R226) -/

/-- While FAULT is not 0 a cycle does nothing (R222). -/
theorem State.cycle_of_halted {s : State} (h : s.fault ≠ .none) : s.cycle = .next s :=
  if_pos h

theorem tickDown_toNat (b : Byte) : (tickDown b).toNat = b.toNat - 1 := by
  unfold tickDown
  split
  case isTrue hzero => rw [hzero]; rfl
  case isFalse hpos =>
    have hb : b.toNat ≠ 0 := fun h => hpos (BitVec.eq_of_toNat_eq h)
    exact BitVec.toNat_sub_of_le (BitVec.le_def.mpr (Nat.one_le_iff_ne_zero.mpr hb))

theorem tickDown_iterate_toNat (n : Nat) (b : Byte) : (tickDown^[n] b).toNat = b.toNat - n := by
  induction n generalizing b with
  | zero => rfl
  | succ n ih =>
    rw [Function.iterate_succ_apply, ih, tickDown_toNat]
    omega

theorem State.timerTick_frame (s : State) :
    s.timerTick = { s with dt := s.timerTick.dt, st := s.timerTick.st } := rfl

/-- A run over listed ticks ticks both timers as often and takes the ticks off the schedule. -/
theorem steps_replicate_timerTick {n : Nat} {s : State} {rest : List Event}
    (hs : s.schedule.events = List.replicate n .timerTick ++ rest) :
    steps n s = .next { s with
      dt := tickDown^[n] s.dt
      st := tickDown^[n] s.st
      schedule := { s.schedule with events := rest } } := by
  induction n generalizing s with
  | zero =>
    rw [List.replicate_zero, List.nil_append] at hs
    rw [steps, ← hs]
    rfl
  | succ n ih =>
    have hnext : s.schedule.next =
        some (.timerTick, ⟨List.replicate n .timerTick ++ rest, s.schedule.later⟩) := by
      rw [← Schedule.next_cons, ← List.cons_append, ← List.replicate_succ, ← hs]
    refine steps_succ_eq_next.mpr ⟨_, (step_of_next hnext).trans rfl, ?_⟩
    rw [ih rfl]
    rfl

/-! ## Reset and the load of an image (R250, R252) -/

/-- Memory after reset is FONT at 0x050 to 0x09F (R250). -/
theorem Memory.read_initial_font (font : Vector Byte 80) (k : Fin 80) :
    (Memory.initial font).read (0x050 + k.val) = font[k.val] := by
  have hk := k.isLt
  refine (dif_pos (by omega)).trans ?_
  simp only [Memory.initial, Nat.add_sub_cancel_left]

/-- Memory after reset is 0 outside FONT (R250). -/
theorem Memory.read_initial_zero (font : Vector Byte 80) {a : Nat} (ha : a < 0x050 ∨ 0x09F < a) :
    (Memory.initial font).read a = 0 :=
  dif_neg (by omega)

/-- The first cycle after reset finds the word 0 at 0x200, which no instruction has (R256). -/
theorem State.cycle_applyReset (s : State) :
    s.applyReset.cycle = .next { s.applyReset with opcode := 0, fault := .unimplementedOpcode } := by
  have hword : s.applyReset.fetchWord = 0 := by
    rw [State.fetchWord, State.applyReset_mem, State.applyReset_pc,
      Memory.read_initial_zero _ (by decide), Memory.read_initial_zero _ (by decide)]
    rfl
  have hfetch : s.applyReset.fetchCause = .none := by
    rw [State.fetchCause_eq_none, State.applyReset_pc]
    decide
  have hdecode : decodeWord s.applyReset.fetchWord = none := by
    rw [hword]
    decide
  rw [State.cycle_of_decodeWord_eq_none s.applyReset_fault hfetch hdecode, hword]

/-- The load of an empty image changes nothing. -/
theorem State.loadRom_nil (s : State) : s.loadRom [] = .next s :=
  State.loadRom_eq_next.mpr ⟨Nat.zero_le _, rfl⟩

/-! ## The obligations -/

/-- Settles O48: each timer ends as its n-fold tick. -/
theorem ticksRunATimerOut : Obligations.TicksRunATimerOut := by
  intro s t n rest hs h
  obtain rfl := Host.Outcome.next.inj ((steps_replicate_timerTick hs).symm.trans h)
  exact ⟨tickDown_iterate_toNat n s.dt, tickDown_iterate_toNat n s.st, rfl⟩

/-- Settles O10: a cycle stops at the halt check, and the other events do not look at FAULT. -/
theorem haltedCoreOnlyTakesHostEvents : Obligations.HaltedCoreOnlyTakesHostEvents :=
  fun s hhalted =>
    ⟨State.cycle_of_halted hhalted,
      ⟨s.timerTick, rfl, tickDown_toNat s.dt, tickDown_toNat s.st, s.timerTick_frame⟩,
      fun _ => rfl, rfl⟩

/-- Settles O47: 1 less, cut off at 0, on either timer. -/
theorem timerTickCountsDown : Obligations.TimerTickCountsDown := by
  intro s
  have hdt := tickDown_toNat s.dt
  have hst := tickDown_toNat s.st
  refine ⟨s.timerTick, rfl, fun _ => hdt, fun hzero => ?_, fun _ => hst, fun hzero => ?_,
    s.timerTick_frame⟩
  · rw [State.timerTick_dt, hdt, hzero]
  · rw [State.timerTick_st, hst, hzero]

/-- Settles O49: bit 64 y + x is in row y, column x, by division with remainder. -/
theorem hostEventsAndPorts : Obligations.HostEventsAndPorts := by
  refine fun s => ⟨fun _ => rfl, rfl, fun y x k hk => ?_, rfl, ?_⟩
  · have hy : (⟨k.val / 64, by omega⟩ : Fin 32) = y := Fin.ext (by simp only; omega)
    have hx : (⟨k.val % 64, Nat.mod_lt _ (by decide)⟩ : Fin 64) = x := Fin.ext (by simp only; omega)
    rw [State.fbPort, hy, hx]
  · rw [State.tone_eq_decide, decide_eq_true_iff]

/-- Settles O50: each element is that of the reset state, and memory is FONT over zeros. -/
theorem resetFromAnyState : Obligations.ResetFromAnyState := by
  refine fun s => ⟨s.applyReset, rfl, fun x => ?_, rfl, rfl, rfl, fun k => ?_, rfl, rfl, rfl, rfl, rfl, rfl,
    Memory.read_initial_font s.mem.font, fun _ => Memory.read_initial_zero s.mem.font, pixel_clearFb⟩
  · rw [State.reg, State.applyReset_v, Vector.getElem_replicate]
  · rw [State.applyReset_stack, Vector.getElem_replicate]

/-- Settles O51: the image fits the bytes from 0x200 to the end of memory. -/
theorem loadRomWritesTheImage : Obligations.LoadRomWritesTheImage := by
  refine fun s bytes => ⟨fun hfits hwf => ?_, fun hlong => s.loadRom_of_oversized hlong⟩
  have hspan : Config.romBase + bytes.length ≤ Config.memSize := by
    simp only [Config.romBase, Config.memSize]
    omega
  exact ⟨_, State.loadRom_eq_next.mpr ⟨hfits, rfl⟩,
    fun _ hk => Memory.read_writeBytes_of_lt hwf hspan hk,
    fun _ ha => Memory.read_writeBytes_of_outside hwf hspan ha, rfl⟩

/-- Settles O52: the empty image leaves the reset state, whose first cycle faults. -/
theorem noProgramFaultsAtOnce : Obligations.NoProgramFaultsAtOnce := by
  intro s t u hreset hload
  obtain rfl : s.applyReset = t := Host.Outcome.next.inj hreset
  obtain rfl : s.applyReset = u := Host.Outcome.next.inj (s.applyReset.loadRom_nil.symm.trans hload)
  exact ⟨⟨_, s.cycle_applyReset, rfl, rfl, rfl⟩, ⟨_, s.cycle_applyReset, rfl, rfl, rfl⟩⟩

end Sys2Proof.Machine
